-- ==== Sys2Proof/Word.lean ====
section
/-! DEFINITION. The machine word (R6), its wrap-around, and the two small name sets every layer shares: parameter
slots (R12) and parameter modes (R56). The width W is a parameter of the machine (R5), so a word is an integer that
lies in the range W gives, and `IsWord` says that it does. -/

namespace Sys2Proof

/-- `2^(W-1)`, the size of each half of the word range (R6). -/
def halfRange (W : Nat) : Int := ((2 ^ (W - 1) : Nat) : Int)

/-- R6: a word is an integer in the range `[-2^(W-1), 2^(W-1) - 1]`. Cells, operands and results have the type `Int`
("signed integers", R20), and that they are words is this predicate, an invariant of the machine. -/
abbrev IsWord (W : Nat) (v : Int) : Prop := -halfRange W ≤ v ∧ v ≤ halfRange W - 1

/-- R6: `wrap_W(v)` is the word congruent to `v` modulo `2^W` (two's complement wrap-around). -/
def wrapW (W : Nat) (v : Int) : Int := Int.bmod v (2 ^ W)

/-- A parameter slot: position 1, 2 or 3 behind the opcode word (R12, R53). -/
inductive Slot where
  | p1 | p2 | p3
  deriving DecidableEq, Repr

/-- The slot's number; its raw parameter stands at `ip +` this (R16, R53). -/
def Slot.number : Slot → Nat
  | .p1 => 1
  | .p2 => 2
  | .p3 => 3

/-- R56: Positional (the parameter is an address) or Immediate (the parameter is the value). -/
inductive Mode where
  | positional | immediate
  deriving DecidableEq, Repr

end Sys2Proof
end

