-- ==== Sys2Proof/Config.lean ====
section
/-! DEFINITION. The implementation parameters of R5 that a step depends on, and the one free draw of the spec.
MEM_LEN is the length of the tape and the input stream is a field of State. -/

namespace Sys2Proof

/-- R5, R72: what an Add or Multiply does whose exact result is not a word (OVERFLOW_POLICY, D2). -/
inductive OverflowPolicy where
  | wrap | fault
  deriving DecidableEq, Repr

/-- The parameters of one machine, fixed for its life. The spec leaves both open (R5, D1, D2), so they are data that
State carries and no step changes; a claim over every state is a claim over every width and both policies (log 1). -/
structure Config where
  /-- WORD_BITS, the width W of a word. -/
  wordBits : Nat
  /-- OVERFLOW_POLICY. -/
  overflow : OverflowPolicy
  deriving DecidableEq, Repr

/-- DESIGN CHOICE, unsafe (log 1): the parameters State.reset carries, those of the spec's own test vectors
(95_test_vectors.md: W = 64, policy wrap). -/
def Config.standard : Config := { wordBits := 64, overflow := .wrap }

/-- A word must be able to hold the Boolean results 0 and 1 (R6, R11), which takes two bits. DEDUCED, safe (log 2). -/
abbrev Config.Ok (c : Config) : Prop := 2 ≤ c.wordBits

/-- R5, R75 (D10): INPUT_CONSUMED_ON_WRITE_FAULT, "a draw per occurrence, not a fixed value": whether the n-th Read
with an invalid target makes its input request before it faults. A FREE VALUE: it has no body, so nothing can be
proved of it (log 11). -/
opaque Config.inputConsumedOnWriteFault : Nat → Bool

end Sys2Proof
end

