-- ==== Sys2Proof/Syntax.lean ====
section
/-! DEFINITION. The instructions: one constructor for each row of spec/opcode_table.json (R60). -/

namespace Sys2Proof

/-- One decoded opcode word. Each constructor carries the three mode digits the word holds (R53), those of slots the
instruction lacks included, since R58 decodes and checks all three whatever the opcode. The raw parameters are not
part of the decoded instruction: the handler reads them from memory slot by slot (R38, R62), and the order in which
their faults show depends on that (R90). -/
inductive Instr where
  /-- Add, opcode 1 (R73): read, read, write. -/
  | add (m1 m2 m3 : Mode)
  /-- Multiply, opcode 2 (R74): read, read, write. -/
  | mul (m1 m2 m3 : Mode)
  /-- Read, opcode 3 (R75): write. -/
  | read (m1 m2 m3 : Mode)
  /-- Print, opcode 4 (R77): read. -/
  | print (m1 m2 m3 : Mode)
  /-- JumpNZ, opcode 5 (R80): read, read. -/
  | jnz (m1 m2 m3 : Mode)
  /-- JumpZ, opcode 6 (R81): read, read. -/
  | jz (m1 m2 m3 : Mode)
  /-- IsLessThan, opcode 7 (R83): read, read, write. -/
  | lt (m1 m2 m3 : Mode)
  /-- IsEqual, opcode 8 (R84): read, read, write. -/
  | eq (m1 m2 m3 : Mode)
  /-- Halt, opcode 99 (R85): no slot. -/
  | halt (m1 m2 m3 : Mode)
  deriving DecidableEq, Repr

end Sys2Proof
end

