-- ==== Sys2Proof/WellFormed.lean ====
section
/-! DEFINITION. The dispatch table's slot roles and lengths (R60) and the one check on an instruction term: a write
slot is Positional (R57, R60). -/

namespace Sys2Proof

/-- R60: what an instruction does with a slot. -/
inductive Role where
  | read | write | absent
  deriving DecidableEq, Repr

/-- R60: the role of each slot, by instruction. -/
def Instr.role : Instr → Slot → Role
  | .add .., .p3 | .mul .., .p3 | .lt .., .p3 | .eq .., .p3 => .write
  | .add .., _ | .mul .., _ | .lt .., _ | .eq .., _ => .read
  | .read .., .p1 => .write
  | .read .., _ => .absent
  | .print .., .p1 => .read
  | .print .., _ => .absent
  | .jnz .., .p3 | .jz .., .p3 => .absent
  | .jnz .., _ | .jz .., _ => .read
  | .halt .., _ => .absent

/-- The mode an instruction carries for a slot (R53). -/
def Instr.mode : Instr → Slot → Mode
  | .add m1 m2 m3, k | .mul m1 m2 m3, k | .read m1 m2 m3, k | .print m1 m2 m3, k | .jnz m1 m2 m3, k
  | .jz m1 m2 m3, k | .lt m1 m2 m3, k | .eq m1 m2 m3, k | .halt m1 m2 m3, k =>
    match k with
    | .p1 => m1
    | .p2 => m2
    | .p3 => m3

/-- R60: the number of words of an instruction, told from its opcode alone (R61). -/
def Instr.length : Instr → Nat
  | .add .. | .mul .. | .lt .. | .eq .. => 4
  | .jnz .. | .jz .. => 3
  | .read .. | .print .. => 2
  | .halt .. => 1

/-- R57: the first write slot whose mode is Immediate, in slot order. -/
def Instr.badWriteSlot (i : Instr) : Option Slot :=
  [Slot.p1, Slot.p2, Slot.p3].find? fun k => i.role k == .write && i.mode k == .immediate

/-- R60: "Write-target parameters … must never be Immediate". -/
def Instr.wellFormed (i : Instr) : Bool := i.badWriteSlot.isNone

end Sys2Proof
end

