-- ==== Sys2Proof/Decode.lean ====
section
/-! DEFINITION. The decoder (R53 to R61, R67), total on every word and rejecting by name, and after it the encoder
(R55). Fields are decimal digits, not bits (R10). -/

namespace Sys2Proof

/-- R8: the decimal digit of weight `10^k`, with the truncating division and remainder of R7. -/
def digit (k : Nat) (w : Int) : Int := (w.tdiv ((10 ^ k : Nat) : Int)).tmod 10

/-- R53: the opcode field `op = w rem 100`; negative for a negative word (R7, R54). -/
def opcodeField (w : Int) : Int := w.tmod 100

/-- R53: the mode digit of slot i is `digit_(i+1)`. -/
def modeDigit (k : Slot) (w : Int) : Int := digit (k.number + 1) w

/-- R56: 0 is Positional, 1 is Immediate, and no other digit is a mode. -/
def modeOfDigit (d : Int) : Option Mode :=
  if d = 0 then some .positional else if d = 1 then some .immediate else none

/-- Why a word is not an instruction: the three decode faults of R67, with the detail R88 records. -/
inductive DecodeFault where
  /-- R88 code 1: the opcode field and the word. -/
  | invalidOpcode (op : Int) (w : Int)
  /-- R88 code 2: the slot and the digit. -/
  | invalidMode (slot : Slot) (digit : Int)
  /-- R88 code 3: the slot. -/
  | invalidWriteMode (slot : Slot)
  deriving DecidableEq, Repr

/-- R57 step 2, R60: the instruction an opcode number selects. -/
def instrOfOpcode (op : Int) : Option (Mode → Mode → Mode → Instr) :=
  if op = 1 then some .add
  else if op = 2 then some .mul
  else if op = 3 then some .read
  else if op = 4 then some .print
  else if op = 5 then some .jnz
  else if op = 6 then some .jz
  else if op = 7 then some .lt
  else if op = 8 then some .eq
  else if op = 99 then some .halt
  else none

/-- R57 step 3, one slot: its mode, or InvalidMode with the slot and the digit. -/
def decodeMode (k : Slot) (w : Int) : Except DecodeFault Mode :=
  match modeOfDigit (modeDigit k w) with
  | some m => .ok m
  | none => .error (.invalidMode k (modeDigit k w))

/-- R57: the write-target check, after all mode digits. -/
def checkWriteSlots (i : Instr) : Except DecodeFault Instr :=
  match i.badWriteSlot with
  | none => .ok i
  | some k => .error (.invalidWriteMode k)

/-- R57 steps 1 to 3 and the write-target check, in that order: opcode, then the three mode digits in slot order
(R58), then the write slots. Digits from `10^5` up are not looked at (R59). -/
def decode (w : Int) : Except DecodeFault Instr :=
  match instrOfOpcode (opcodeField w) with
  | none => .error (.invalidOpcode (opcodeField w) w)
  | some mk => do
    let m1 ← decodeMode .p1 w
    let m2 ← decodeMode .p2 w
    let m3 ← decodeMode .p3 w
    checkWriteSlots (mk m1 m2 m3)

/-- R60: the opcode number of an instruction. -/
def Instr.opcode : Instr → Int
  | .add .. => 1
  | .mul .. => 2
  | .read .. => 3
  | .print .. => 4
  | .jnz .. => 5
  | .jz .. => 6
  | .lt .. => 7
  | .eq .. => 8
  | .halt .. => 99

/-- R56: the digit that stands for a mode. -/
def Mode.digit : Mode → Int
  | .positional => 0
  | .immediate => 1

/-- R55: the opcode word `op + 100*m1 + 1000*m2 + 10000*m3`. The parameter words behind it are operands in memory,
not part of the decoded instruction. -/
def encode (i : Instr) : Int :=
  i.opcode + 100 * (i.mode .p1).digit + 1000 * (i.mode .p2).digit + 10000 * (i.mode .p3).digit

/-- Word number k of a bit string laid out with W bits a word, the first word lowest, each read as a signed word. -/
def tableWord (W : Nat) (bits k : Nat) : Int := wrapW W ((bits >>> (W * k)) % 2 ^ W : Nat)

/-- The instruction the decoder reads from the bits `w`, at the width State.reset carries: its first word is the
opcode word. Bits above `nbits` are 0 by the host's convention, so `w` is the whole numeral. -/
def decodeTableWord (_nbits w : Nat) : Option Instr :=
  match decode (tableWord Config.standard.wordBits w 0) with
  | .ok i => some i
  | .error _ => none

end Sys2Proof
end

