-- ==== Sys2Proof/Machine/State.lean ====
section
/-! DEFINITION. The machine's state (R13) as plain data, the fault record's parts (R23, R88), the ports' pending
answers (R29 to R32), the control inputs (R27), and the state after reset (R103). -/

namespace Sys2Proof.Machine

/-- The tape (R20): cell a is position a of the list, N is its length. Every cell holds a word from initialisation
on (R21) and no address is left out, so equal tapes are equal lists (log 3). -/
abbrev Memory := List Int

/-- R6, R20: every cell of the tape holds a word of width W. -/
abbrev Memory.wf (m : Memory) (W : Nat) : Prop := ∀ v ∈ m, IsWord W v

/-- One line of text, as characters. An input line comes without its terminator (R29); an output line carries it
(R78). -/
abbrev Line := List Char

/-- R88: whether an out-of-bounds access was a fetch, a read or a write. -/
inductive Access where
  | fetch | read | write
  deriving DecidableEq, Repr

/-- R88: what was wrong with the input of a Read. -/
inductive BadLine where
  | endOfInput | malformed
  deriving DecidableEq, Repr

/-- The seven fault kinds (R88). -/
inductive FaultKind where
  | invalidOpcode | invalidMode | invalidWriteMode | outOfBounds | badInput | outputFailed | overflow
  deriving DecidableEq, Repr

/-- A fault kind together with the `detail` R88 records for it. -/
inductive FaultCause where
  /-- Code 1: the opcode field `w rem 100` and the word. -/
  | invalidOpcode (op : Int) (w : Int)
  /-- Code 2: the slot and the digit. -/
  | invalidMode (slot : Slot) (digit : Int)
  /-- Code 3: the slot. -/
  | invalidWriteMode (slot : Slot)
  /-- Code 4: the address and the access. -/
  | outOfBounds (address : Int) (access : Access)
  /-- Code 5: EndOfInput or Malformed. -/
  | badInput (why : BadLine)
  /-- Code 6: no detail. -/
  | outputFailed
  /-- Code 7: the exact result. -/
  | overflow (exact : Int)
  deriving DecidableEq, Repr

/-- R23: the fault record. `kind`, `code` and `detail` are all read off `cause`, which is stored once. -/
structure FaultRecord where
  cause : FaultCause
  /-- The value of `ip` at the faulting instruction. -/
  faultIp : Int
  deriving DecidableEq, Repr

/-- R22: the run status. The argument of a wait is the operand the waiting instruction has already resolved, the
hidden state of R25 (log 8); the status output shows which of the six it is. -/
inductive Status where
  | ready
  | running
  /-- A Read waits for the input port; its target address. -/
  | waitIn (target : Int)
  /-- A Print waits for the output port; its value. -/
  | waitOut (value : Int)
  | halted
  | faulted
  deriving DecidableEq, Repr

/-- What the input source does at one poll of a request: nothing yet (R30), or one line (R29). -/
inductive InputEvent where
  | notYet
  | line (l : Line)
  deriving DecidableEq, Repr

/-- R5, D12: what follows the last line: EndOfInput for every request, or an indefinite wait. -/
inductive InputRest where
  | endOfInput | silent
  deriving DecidableEq, Repr

/-- The input source from its present position on (R13, R29). -/
structure InputSource where
  events : List InputEvent
  rest : InputRest
  deriving DecidableEq, Repr

/-- The source's answer at one poll (R29, R30). -/
inductive InputAnswer where
  | notYet
  | endOfInput
  | line (l : Line)
  deriving DecidableEq, Repr

/-- The sink's answer at one poll of an offer (R32). -/
inductive SinkAnswer where
  | notYet | accepted | failed
  deriving DecidableEq, Repr

/-- The output sink from now on (R31, R32): its next answers, and the one it gives at every poll after those. -/
structure Sink where
  answers : List SinkAnswer
  rest : SinkAnswer
  deriving DecidableEq, Repr

/-- R27: what the host asserts on the control inputs while the CORE takes one step: nothing, or one of the two. -/
inductive Control where
  | idle
  | init (image : List Int)
  | run
  deriving DecidableEq, Repr

/-- The state of R13, the environment's pending inputs, the machine's parameters, and the draw counter. -/
structure State where
  /-- R5: the parameters, which no step changes (log 1). -/
  cfg : Config
  /-- R16 to R19: the instruction pointer latch, an integer that never wraps. -/
  ip : Int
  /-- R20, R21: the tape. -/
  mem : Memory
  /-- R22: the run status. -/
  status : Status
  /-- R23: the fault record, empty unless the status is FAULTED. -/
  fault : Option FaultRecord
  /-- R29, R30: the input source from its present position on. -/
  input : InputSource
  /-- R34: the lines consumed from the input source, oldest first. -/
  consumed : List Line
  /-- R31, R32: the output sink's answers from now on. -/
  sink : Sink
  /-- R34: the lines delivered to the output sink, oldest first. -/
  output : List Line
  /-- R27: what the host asserts on the control inputs from now on, one entry a step, nothing after the last (log 5). -/
  control : List Control
  /-- The model's own counter of draws made, which indexes the free draw of R75 (log 11). -/
  draws : Nat
  deriving DecidableEq, Repr

/-- Why the interface's machine stops with a fault: never. Every error of this CORE is a fault with an entry the spec
describes (R91), so raising one is a next state whose status is FAULTED; this type has no value (log 7). -/
inductive Fault where
  deriving DecidableEq, Repr

/-- Why the interface's machine refuses. -/
inductive Refusal where
  /-- An instruction without a meaning yet; no arm of `exec` raises it. Safe. -/
  | notModelled (mnemonic : String)
  /-- Raised by the control input `init`: the image holds an integer that is not a word, and R104 says `init`
  refuses it and no run starts. Safe. -/
  | imageWordOutOfRange
  deriving DecidableEq, Repr

/-- The state after `init` of the empty image (R103, R105). The spec gives `ip`, `status` and the fault record; the
empty tape is the DESIGN CHOICE of log 4, and the fields it does not fix carry those of log 1, 5, 9, 10, 11, 12. -/
def State.reset : State where
  cfg := Config.standard
  ip := 0
  mem := []
  status := .ready
  fault := none
  input := { events := [], rest := .silent }
  consumed := []
  sink := { answers := [], rest := .accepted }
  output := []
  control := []
  draws := 0

end Sys2Proof.Machine
end

