-- ==== Sys2Proof/Machine/Ops.lean ====
section
/-! DEFINITION. The named operations over the state: one cell read or written (R9, R36, R37), the latch load (R17),
raising a fault (R91), the fault record's views (R88), and the fetch and decode of one instruction (R57). There is no
return from a fault (R93): only `init` leaves FAULTED, and it stands in Control.lean. -/

namespace Sys2Proof.Machine

/-- R37: an address is valid when `0 <= a < N`. -/
def Memory.valid (m : Memory) (a : Int) : Bool := decide (0 ≤ a) && decide (a < (m.length : Int))

/-- The word in cell a, or nothing where a is not a valid address (R37). -/
def cellAt (m : Memory) (a : Int) : Option Int := if 0 ≤ a then m[a.toNat]? else none

/-- `MemRead(a, 1)` (R9): the word in cell a, or OutOfBounds(a) with the access R88 records. -/
def memRead (s : State) (access : Access) (a : Int) : Except FaultCause Int :=
  match cellAt s.mem a with
  | some w => .ok w
  | none => .error (.outOfBounds a access)

/-- The tape with cell a replaced (R36); the tape itself where a is not valid (R37, R45). -/
def setCell (m : Memory) (a : Int) (v : Int) : Memory := if m.valid a then m.set a.toNat v else m

/-- The state with cell a of its tape replaced. -/
def State.storeCell (s : State) (a : Int) (v : Int) : State := { s with mem := setCell s.mem a v }

/-- `MemWrite(a, 1, v)` (R9): replaces cell a, or raises OutOfBounds(a) and writes nothing. -/
def memWrite (s : State) (a : Int) (v : Int) : Except FaultCause State :=
  if s.mem.valid a then .ok (s.storeCell a v) else .error (.outOfBounds a .write)

/-- `ip <- t` (R9): the latch takes any integer (R18). -/
def State.loadIp (s : State) (t : Int) : State := { s with ip := t }

/-- The run status set (R22). -/
def State.setStatus (s : State) (st : Status) : State := { s with status := st }

/-- TAKING A FAULT (R91): status FAULTED, the record filled with the cause and `fault_ip = ip`; `ip`, memory and all
else as they stand. -/
def raise (c : FaultCause) (s : State) : State :=
  { s with status := .faulted, fault := some { cause := c, faultIp := s.ip } }

/-- The end of an instruction whose pseudocode either reached its end or raised a fault before it changed anything:
the state reached, or the fault taken in the state the instruction began in (R90, R91). -/
def conclude (s : State) : Except FaultCause State → Host.Outcome State Fault Refusal
  | .ok s' => .next s'
  | .error c => .next (raise c s)

/-- R88: the kind of a cause. -/
def FaultCause.kind : FaultCause → FaultKind
  | .invalidOpcode .. => .invalidOpcode
  | .invalidMode .. => .invalidMode
  | .invalidWriteMode .. => .invalidWriteMode
  | .outOfBounds .. => .outOfBounds
  | .badInput .. => .badInput
  | .outputFailed => .outputFailed
  | .overflow .. => .overflow

/-- R88: the numeric code of a kind. -/
def FaultKind.code : FaultKind → Nat
  | .invalidOpcode => 1
  | .invalidMode => 2
  | .invalidWriteMode => 3
  | .outOfBounds => 4
  | .badInput => 5
  | .outputFailed => 6
  | .overflow => 7

/-- R88: the decode faults are fault kinds 1 to 3, with the same detail. -/
def causeOfDecode : DecodeFault → FaultCause
  | .invalidOpcode op w => .invalidOpcode op w
  | .invalidMode k d => .invalidMode k d
  | .invalidWriteMode k => .invalidWriteMode k

/-- R57: the word at `ip`, or OutOfBounds(ip) recorded as a fetch. Memory is read afresh each time (R50). -/
def fetch (s : State) : Except FaultCause Int := memRead s .fetch s.ip

/-- R57 steps 1 to 3: fetch, then decode. -/
def fetchDecode (s : State) : Except FaultCause Instr :=
  match fetch s with
  | .error c => .error c
  | .ok w =>
    match decode w with
    | .ok i => .ok i
    | .error d => .error (causeOfDecode d)

end Sys2Proof.Machine
end

