-- ==== Sys2Proof/Machine/Control.lean ====
section
/-! DEFINITION. The control inputs (R27): `init(image)`, the CORE's only reset (R103), and `run`. Each acts at the step
it is asserted at, by the status of the CORE at that step, and is then gone (log 5). -/

namespace Sys2Proof.Machine

/-- What the host asserts at this step. -/
def State.asserted (s : State) : Control := s.control.headD .idle

/-- The control input asserted at this step gone by. A step of a run does nothing else with it: `run` has no effect in
RUNNING, WAIT_IN and WAIT_OUT (R27, D20). DESIGN CHOICE, unsafe (log 5): nor has `init`, which R27 gives no status;
a run is left by a Halt or a fault alone (R22, R95), and no other agent writes the tape or `ip` in it (R28). -/
def State.passControl (s : State) : State := { s with control := s.control.tail }

/-- R103: memory is the image, `ip` is 0, the status READY, the fault record empty; the ports stand where they stand.
R104: an image that holds an integer outside the word range is refused. -/
def applyInit (image : List Int) (s : State) : Host.Outcome State Fault Refusal :=
  if Memory.wf image s.cfg.wordBits then
    .next { s with mem := image, ip := 0, status := .ready, fault := none }
  else .refused .imageWordOutOfRange

/-- R27: `run` sets RUNNING in READY and has no effect in any other status (D20). -/
def applyRun (s : State) : State :=
  match s.status with
  | .ready => s.setStatus .running
  | _ => s

/-- One step outside a run: the control input asserted at it takes effect, and with none nothing happens (R27, R86,
R102). -/
def stepIdle (s : State) : Host.Outcome State Fault Refusal :=
  match s.asserted with
  | .idle => .next s.passControl
  | .init image => applyInit image s.passControl
  | .run => .next (applyRun s.passControl)

end Sys2Proof.Machine
end

