-- ==== Sys2Proof/Machine/Flags.lean ====
section
/-! DEFINITION. The CORE has no status flags and no condition codes (R15): this file holds what stands in their
place, the ALU's Boolean results as words (R11) and the zero test the jumps use (R2, R15). -/

namespace Sys2Proof.Machine

/-- R11: true is the word 1, false the word 0. -/
def boolWord (b : Bool) : Int := if b then 1 else 0

/-- R83: 1 if `a < b` as signed words, else 0. -/
def ltWord (a b : Int) : Int := boolWord (decide (a < b))

/-- R84: 1 if `a = b`, else 0. -/
def eqWord (a b : Int) : Int := boolWord (decide (a = b))

/-- R15: the jumps test an operand against zero directly; a negative word is nonzero (R80). -/
def isZero (v : Int) : Bool := decide (v = 0)

end Sys2Proof.Machine
end

