-- ==== Sys2Proof/Machine/Operands.lean ====
section
/-! DEFINITION. The parameter resolver (R62 to R66): every operand form the spec gives. -/

namespace Sys2Proof.Machine

/-- The raw parameter of slot k: the word at `ip + k` (R16), or OutOfBounds(ip + k). DEDUCED (log 16): the access is
recorded as a read, "fetch" being the opcode word's (R90). -/
def rawParam (s : State) (k : Slot) : Except FaultCause Int := memRead s .read (s.ip + k.number)

/-- R62: a read slot's operand. Positional reads the cell the raw word addresses; Immediate is the raw word itself,
unchanged (R64). -/
def resolve (s : State) (k : Slot) (m : Mode) : Except FaultCause Int :=
  match rawParam s k with
  | .error c => .error c
  | .ok raw =>
    match m with
    | .positional => memRead s .read raw
    | .immediate => .ok raw

/-- R63: a write slot's target address is its raw word, not dereferenced. -/
def target (s : State) (k : Slot) : Except FaultCause Int := rawParam s k

/-- R65: both read slots of an instruction, slot 1 then slot 2, before anything else happens. -/
def resolveTwo (s : State) (m1 m2 : Mode) : Except FaultCause (Int × Int) :=
  match resolve s .p1 m1 with
  | .error c => .error c
  | .ok a =>
    match resolve s .p2 m2 with
    | .error c => .error c
    | .ok b => .ok (a, b)

end Sys2Proof.Machine
end

