-- ==== Sys2Proof/Machine/Alu.lean ====
section
/-! DEFINITION. The ALU's sum and product (R72), and the one shape Add, Multiply, IsLessThan and IsEqual share:
resolve two, target, compute, write, advance. -/

namespace Sys2Proof.Machine

/-- R72: an exact result reduced to a word: itself where it is one, else wrapped or Overflow by policy. -/
def fit (c : Config) (x : Int) : Except FaultCause Int :=
  if IsWord c.wordBits x then .ok x
  else
    match c.overflow with
    | .wrap => .ok (wrapW c.wordBits x)
    | .fault => .error (.overflow x)

/-- R72: `alu_add(a, b) = fit(a + b)`. -/
def aluAdd (c : Config) (a b : Int) : Except FaultCause Int := fit c (a + b)

/-- R72: `alu_mul(a, b) = fit(a * b)`. -/
def aluMul (c : Config) (a b : Int) : Except FaultCause Int := fit c (a * b)

/-- R83: the comparison's result; no overflow is possible. -/
def aluLt (_ : Config) (a b : Int) : Except FaultCause Int := .ok (ltWord a b)

/-- R84: the comparison's result. -/
def aluEq (_ : Config) (a b : Int) : Except FaultCause Int := .ok (eqWord a b)

/-- The pseudocode of R73, R74, R83 and R84 up to its result: `a <- resolve(1)`, `b <- resolve(2)`, `t <- target(3)`,
the ALU's result (Overflow comes before OutOfBounds(t), R90), `MemWrite(t, 1, r)`, `ip <- ip + 4`. -/
def computeStore (f : Config → Int → Int → Except FaultCause Int) (m1 m2 : Mode) (s : State) :
    Except FaultCause State :=
  match resolveTwo s m1 m2 with
  | .error c => .error c
  | .ok (a, b) =>
    match target s .p3 with
    | .error c => .error c
    | .ok t =>
      match f s.cfg a b with
      | .error c => .error c
      | .ok r =>
        match memWrite s t r with
        | .error c => .error c
        | .ok s' => .ok (s'.loadIp (s.ip + 4))

end Sys2Proof.Machine
end

