-- ==== Sys2Proof/Machine/Arith.lean ====
section
/-! DEFINITION. The arithmetic family: Add (R73) and Multiply (R74). -/

namespace Sys2Proof.Machine

/-- Add, opcode 1 (R73). -/
def execAdd (m1 m2 : Mode) (s : State) : Host.Outcome State Fault Refusal := conclude s (computeStore aluAdd m1 m2 s)

/-- Multiply, opcode 2 (R74). -/
def execMul (m1 m2 : Mode) (s : State) : Host.Outcome State Fault Refusal := conclude s (computeStore aluMul m1 m2 s)

end Sys2Proof.Machine
end

