-- ==== Sys2Proof/Machine/Compare.lean ====
section
/-! DEFINITION. The comparison family: IsLessThan (R83) and IsEqual (R84). -/

namespace Sys2Proof.Machine

/-- IsLessThan, opcode 7 (R83). -/
def execLt (m1 m2 : Mode) (s : State) : Host.Outcome State Fault Refusal := conclude s (computeStore aluLt m1 m2 s)

/-- IsEqual, opcode 8 (R84). -/
def execEq (m1 m2 : Mode) (s : State) : Host.Outcome State Fault Refusal := conclude s (computeStore aluEq m1 m2 s)

end Sys2Proof.Machine
end

