-- ==== Sys2Proof/Machine/Halt.lean ====
section
/-! DEFINITION. Halt (R85). -/

namespace Sys2Proof.Machine

/-- Halt, opcode 99 (R85): `status <- HALTED`; `ip` is not loaded. -/
def execHalt (s : State) : Host.Outcome State Fault Refusal := .next (s.setStatus .halted)

end Sys2Proof.Machine
end

