-- ==== Sys2Proof/Machine/Ports.lean ====
section
/-! DEFINITION. The input and output ports (R29 to R32): one poll of each, the parse of an input line (R76), the
rendering of an output line (R78), and what a Read or Print does with the port's answer (R75, R77). -/

namespace Sys2Proof.Machine

/-- One poll of an input request: the source's answer and the source after it (R29, R30). -/
def InputSource.poll (src : InputSource) : InputAnswer × InputSource :=
  match src.events with
  | .notYet :: es => (.notYet, { src with events := es })
  | .line l :: es => (.line l, { src with events := es })
  | [] =>
    match src.rest with
    | .endOfInput => (.endOfInput, src)
    | .silent => (.notYet, src)

/-- One poll of an output offer: the sink's answer and the sink after it (R32). -/
def Sink.poll (k : Sink) : SinkAnswer × Sink :=
  match k.answers with
  | a :: as => (a, { k with answers := as })
  | [] => (k.rest, k)

/-- R76: an ASCII decimal digit's value. -/
def digitValue (c : Char) : Option Nat :=
  if 48 ≤ c.toNat ∧ c.toNat ≤ 57 then some (c.toNat - 48) else none

/-- The natural number a run of ASCII digits denotes, `acc` being what stands before it; nothing where another
character occurs. -/
def digitsValue : Line → Nat → Option Nat
  | [], acc => some acc
  | c :: cs, acc =>
    match digitValue c with
    | some d => digitsValue cs (10 * acc + d)
    | none => none

/-- R76: one or more ASCII digits and nothing else. -/
def parseDigits : Line → Option Nat
  | [] => none
  | c :: cs => digitsValue (c :: cs) 0

/-- R76: an optional sign `+` or `-`, then one or more digits and nothing else. -/
def parseInteger : Line → Option Int
  | '-' :: cs => (parseDigits cs).map fun (n : Nat) => -(n : Int)
  | '+' :: cs => (parseDigits cs).map fun (n : Nat) => (n : Int)
  | cs => (parseDigits cs).map fun (n : Nat) => (n : Int)

/-- R76: the word a line denotes; nothing where it is malformed or its integer is not a word. -/
def parseWord (W : Nat) (l : Line) : Option Int :=
  match parseInteger l with
  | some v => if IsWord W v then some v else none
  | none => none

/-- The ASCII digit of a value below 10. -/
def digitChar (d : Nat) : Char := Char.ofNat (48 + d)

/-- The decimal digits of n in front of `acc`, most significant first; `fuel` above n is always enough. -/
def digitsOf : Nat → Nat → Line → Line
  | 0, _, acc => acc
  | fuel + 1, n, acc =>
    if n < 10 then digitChar n :: acc else digitsOf fuel (n / 10) (digitChar (n % 10) :: acc)

/-- R78: the digits of a magnitude with no leading zeros; 0 is the single digit `0`. -/
def renderNat (n : Nat) : Line := digitsOf (n + 1) n []

/-- R78: a `-` for a negative value, then the digits of its magnitude; no `+`, no spaces. -/
def renderWord (v : Int) : Line := if v < 0 then '-' :: renderNat v.natAbs else renderNat v.natAbs

/-- R78: the line a Print offers, its terminator the single character LF. -/
def printLine (v : Int) : Line := renderWord v ++ ['\n']

/-- The input source moved on by one poll. -/
def State.setInput (s : State) (src : InputSource) : State := { s with input := src }

/-- One more line consumed (R29, R34). -/
def State.consume (s : State) (l : Line) : State := { s with consumed := s.consumed ++ [l] }

/-- The sink moved on by one poll. -/
def State.setSink (s : State) (k : Sink) : State := { s with sink := k }

/-- One more line delivered (R31, R34). -/
def State.deliver (s : State) (l : Line) : State := { s with output := s.output ++ [l] }

/-- One draw of R75 made (log 11). -/
def State.countDraw (s : State) : State := { s with draws := s.draws + 1 }

/-- The last part of a Read (R75), its line consumed: parse, `MemWrite(t, 1, v)`, `ip <- ip + 2`, back to RUNNING
(R22); Malformed raises BadInput, an invalid target OutOfBounds(t). -/
def finishRead (t : Int) (l : Line) (s : State) : State :=
  match parseWord s.cfg.wordBits l with
  | none => raise (.badInput .malformed) s
  | some v =>
    match memWrite s t v with
    | .error c => raise c s
    | .ok s' => (s'.loadIp (s.ip + 2)).setStatus .running

/-- `InRead()` and what follows it in R75, one poll: the status is WAIT_IN while the port has not answered (R22, R30);
EndOfInput raises BadInput and consumes no line (R92). -/
def awaitInput (t : Int) (s : State) : State :=
  match s.input.poll with
  | (.notYet, src) => (s.setInput src).setStatus (.waitIn t)
  | (.endOfInput, src) => raise (.badInput .endOfInput) (s.setInput src)
  | (.line l, src) => finishRead t l ((s.setInput src).consume l)

/-- R75 with its target known. A valid target goes on to the input request. An invalid one draws (D10): either
OutOfBounds(t) with no request made, or the request first and the fault after it. -/
def startRead (t : Int) (s : State) : State :=
  if s.mem.valid t then awaitInput t s
  else if Config.inputConsumedOnWriteFault s.draws then awaitInput t s.countDraw
  else raise (.outOfBounds t .write) s.countDraw

/-- `OutWrite(v)` and what follows it in R77, one poll: WAIT_OUT while the sink has not answered (R22, R32); Accepted
delivers the line and completes, Failed raises OutputFailed and records no line (log 15). -/
def awaitSink (v : Int) (s : State) : State :=
  match s.sink.poll with
  | (.notYet, k) => (s.setSink k).setStatus (.waitOut v)
  | (.failed, k) => raise .outputFailed (s.setSink k)
  | (.accepted, k) => (((s.setSink k).deliver (printLine v)).loadIp (s.ip + 2)).setStatus .running

end Sys2Proof.Machine
end

