-- ==== Sys2Proof/Machine/Io.lean ====
section
/-! DEFINITION. The input and output family: Read (R75) and Print (R77). -/

namespace Sys2Proof.Machine

/-- Read, opcode 3 (R75): `t <- target(1)`, then the input request (or the draw, where t is not valid). -/
def execRead (s : State) : Host.Outcome State Fault Refusal :=
  match target s .p1 with
  | .error c => .next (raise c s)
  | .ok t => .next (startRead t s)

/-- Print, opcode 4 (R77): `v <- resolve(1)`, then the offer. -/
def execPrint (m1 : Mode) (s : State) : Host.Outcome State Fault Refusal :=
  match resolve s .p1 m1 with
  | .error c => .next (raise c s)
  | .ok v => .next (awaitSink v s)

end Sys2Proof.Machine
end

