-- ==== Sys2Proof/Machine/Jumps.lean ====
section
/-! DEFINITION. The conditional jumps: JumpNZ (R80) and JumpZ (R81), over one shared operation. -/

namespace Sys2Proof.Machine

/-- The pseudocode of R80 and R81: `c <- resolve(1)`, `t <- resolve(2)` (resolved even if the branch is not taken,
R65), then `ip <- t` where the test holds of c, else `ip <- ip + 3`. The target is an absolute address (R82) and is
not checked here (R18). -/
def jumpWhen (test : Int → Bool) (m1 m2 : Mode) (s : State) : Except FaultCause State :=
  match resolveTwo s m1 m2 with
  | .error c => .error c
  | .ok (c, t) => .ok (s.loadIp (if test c then t else s.ip + 3))

/-- JumpNZ, opcode 5 (R80). -/
def execJnz (m1 m2 : Mode) (s : State) : Host.Outcome State Fault Refusal :=
  conclude s (jumpWhen (fun c => !isZero c) m1 m2 s)

/-- JumpZ, opcode 6 (R81). -/
def execJz (m1 m2 : Mode) (s : State) : Host.Outcome State Fault Refusal := conclude s (jumpWhen isZero m1 m2 s)

end Sys2Proof.Machine
end

