-- ==== Sys2Proof/Machine/Dispatch.lean ====
section
/-! DEFINITION. The dispatcher (R60): one arm per instruction. The mode of a write slot is Positional in every
instruction the decoder gives (R57), and a mode of a slot the instruction lacks has no effect (R58). -/

namespace Sys2Proof.Machine

/-- R57 step 4: the handler of a decoded instruction. -/
def exec (i : Instr) (s : State) : Host.Outcome State Fault Refusal :=
  match i with
  | .add m1 m2 _ => Sys2Proof.Machine.execAdd m1 m2 s
  | .mul m1 m2 _ => Sys2Proof.Machine.execMul m1 m2 s
  | .read _ _ _ => Sys2Proof.Machine.execRead s
  | .print m1 _ _ => Sys2Proof.Machine.execPrint m1 s
  | .jnz m1 m2 _ => Sys2Proof.Machine.execJnz m1 m2 s
  | .jz m1 m2 _ => Sys2Proof.Machine.execJz m1 m2 s
  | .lt m1 m2 _ => Sys2Proof.Machine.execLt m1 m2 s
  | .eq m1 m2 _ => Sys2Proof.Machine.execEq m1 m2 s
  | .halt _ _ _ => Sys2Proof.Machine.execHalt s

end Sys2Proof.Machine
end

