-- ==== Sys2Proof/Machine/Step.lean ====
section
/-! DEFINITION. One step of the machine (R57, R109), and how the host places one instruction where the next step
fetches it. -/

namespace Sys2Proof.Machine

/-- One step, by status (R22). RUNNING: one instruction, or the fault its fetch or decode raises (R57). WAIT_IN and
WAIT_OUT: one poll of the port the waiting instruction asked, and no instruction (R79). In these three a control input
asserted meanwhile has no effect (R27, log 5). READY, HALTED, FAULTED: the control input asserted, or nothing (R27, R86,
R93). -/
def step (s : State) : Host.Outcome State Fault Refusal :=
  match s.status with
  | .running =>
    match fetchDecode s with
    | .ok i => exec i s.passControl
    | .error c => .next (raise c s.passControl)
  | .waitIn t => .next (awaitInput t s.passControl)
  | .waitOut v => .next (awaitSink v s.passControl)
  | .ready => stepIdle s
  | .halted => stepIdle s
  | .faulted => stepIdle s

/-- The tape with `ws` at address `a` and on, made longer with zero cells where it ends before them. -/
def placeWords (m : Memory) (a : Nat) (ws : List Int) : Memory :=
  m.take a ++ List.replicate (a - m.length) 0 ++ ws ++ m.drop (a + ws.length)

/-- The state whose very next step runs the instruction with bits `w`: its opcode word and three parameter words (the
longest instruction) stand at `ip` (at 0 where `ip` is negative), and the status is RUNNING with no fault recorded,
as after `init` of such an image and `run` (R106, log 4). -/
def State.withFetchWord (s : State) (_nbits w : Nat) : State :=
  { s with
    ip := s.ip.toNat
    mem := placeWords s.mem s.ip.toNat ([0, 1, 2, 3].map (tableWord s.cfg.wordBits w))
    status := .running
    fault := none }

end Sys2Proof.Machine
end

