-- ==== Sys2Proof/Safety.lean ====
section
/-! DEFINITION. The terms claims are stated in: the operands an instruction names, read off the tape; the state a
fault leaves; when a run is on and when it has ended (R22, R110); and the invariant of the machine. -/

namespace Sys2Proof.Machine

/-- The word a read slot supplies (R62), read off the tape: nothing where its parameter word or the cell it addresses
lies outside the tape. -/
def operandAt (s : State) (k : Slot) (m : Mode) : Option Int :=
  (cellAt s.mem (s.ip + k.number)).bind fun raw =>
    match m with
    | .positional => cellAt s.mem raw
    | .immediate => some raw

/-- The address whose access fails when a read slot has no operand (R62): its parameter word's, or, for a Positional
slot, the one that word names. -/
def operandFaultAt (s : State) (k : Slot) (m : Mode) : Option Int :=
  match cellAt s.mem (s.ip + k.number), m with
  | none, _ => some (s.ip + k.number)
  | some raw, .positional => if (cellAt s.mem raw).isNone then some raw else none
  | some _, .immediate => none

/-- R63: the address a write slot names, read off the tape. -/
def targetAt (s : State) (k : Slot) : Option Int := cellAt s.mem (s.ip + k.number)

/-- R91: the state a fault leaves: status FAULTED and the record with `fault_ip = ip`, nothing else changed. -/
def State.faultedBy (s : State) (c : FaultCause) : State :=
  { s with status := .faulted, fault := some { cause := c, faultIp := s.ip } }

/-- R28: a run is on in RUNNING, WAIT_IN and WAIT_OUT. -/
def Status.inRun : Status → Bool
  | .running | .waitIn _ | .waitOut _ => true
  | .ready | .halted | .faulted => false

/-- R110: a run has ended in HALTED and FAULTED. -/
def Status.ended : Status → Bool
  | .halted | .faulted => true
  | .ready | .running | .waitIn _ | .waitOut _ => false

/-- R22, R30, R32: the statuses of a waiting instruction. -/
def Status.waiting : Status → Bool
  | .waitIn _ | .waitOut _ => true
  | .ready | .running | .halted | .faulted => false

/-- R16: the instruction whose opcode word stands at `ip`, where there is one. -/
def State.instrAt (s : State) : Option Instr :=
  (cellAt s.mem s.ip).bind fun w =>
    match decode w with
    | .ok i => some i
    | .error _ => none

/-- The invariant every step keeps. -/
structure State.Inv (s : State) : Prop where
  /-- R6, R11: a word holds 0 and 1 (log 2). -/
  cfg_ok : s.cfg.Ok
  /-- R6, R21: every cell holds a word. -/
  mem_words : s.mem.wf s.cfg.wordBits
  /-- R18: the latch holds an address of the tape, the one past its end, or a word a jump loaded. -/
  ip_range : (0 ≤ s.ip ∧ s.ip ≤ (s.mem.length : Int)) ∨ IsWord s.cfg.wordBits s.ip
  /-- R23: the fault record is valid exactly in FAULTED. -/
  fault_iff : s.fault.isSome = true ↔ s.status = .faulted
  /-- R91: the record's `fault_ip` is the `ip` the machine stopped at. -/
  fault_ip : ∀ r, s.fault = some r → r.faultIp = s.ip
  /-- R103: READY comes from `init`. -/
  ready_ip : s.status = .ready → s.ip = 0
  /-- R16, R25: in WAIT_IN a Read stands at `ip`, and what it waits with is its own target. -/
  wait_in : ∀ t, s.status = .waitIn t → (∃ m1 m2 m3, s.instrAt = some (.read m1 m2 m3)) ∧ targetAt s .p1 = some t
  /-- R16, R25: in WAIT_OUT a Print stands at `ip`, and what it waits with is its own operand. -/
  wait_out : ∀ v, s.status = .waitOut v →
    ∃ m1 m2 m3, s.instrAt = some (.print m1 m2 m3) ∧ operandAt s .p1 m1 = some v
  /-- R17, R85: in HALTED a Halt stands at `ip`. -/
  halted_at : s.status = .halted → ∃ m1 m2 m3, s.instrAt = some (.halt m1 m2 m3)

end Sys2Proof.Machine
end

