-- ==== Sys2Proof/Certificates/Slice0/Obligations.lean ====
section
/-! DEFINITION. The statements about the machine for the provers. Operands, targets and the state a fault leaves are
spelled in the terms of Safety.lean; a memory after a store is spelled as the list with one position set. Where a
clause rests on a decision the spec marks as its own ([decision: … D<n>] or [derived: …]), the docstring says so. -/

open Sys2Proof Sys2Proof.Machine

/-! ### Encoding -/

/-- R55: the encoding `op + 100*m1 + 1000*m2 + 10000*m3` is the inverse of the decoding, both ways, for words below
100000; the spec marks R55 as derived from R53. -/
def Obligations.EncodeAndDecodeAreInverse : Prop :=
  (∀ i : Instr, i.wellFormed = true → 0 ≤ encode i ∧ encode i < 100000 ∧ decode (encode i) = .ok i) ∧
  (∀ (w : Int) (i : Instr), w < 100000 → decode w = .ok i → i.wellFormed = true ∧ encode i = w)

/-- R59 (marked derived): digits of weight 10^5 and above do not affect decode, in whatever it answers. -/
def Obligations.DecodeIgnoresDigitsAboveTheFifth : Prop :=
  ∀ w k : Int, 0 ≤ w → 0 ≤ k →
    (∀ i, decode (w + 100000 * k) = .ok i ↔ decode w = .ok i) ∧
    (∀ op, decode (w + 100000 * k) = .error (.invalidOpcode op (w + 100000 * k)) ↔
      decode w = .error (.invalidOpcode op w)) ∧
    (∀ slot d, decode (w + 100000 * k) = .error (.invalidMode slot d) ↔ decode w = .error (.invalidMode slot d)) ∧
    (∀ slot, decode (w + 100000 * k) = .error (.invalidWriteMode slot) ↔ decode w = .error (.invalidWriteMode slot))

/-- R54, R67: a negative word, and a word whose opcode field is 0 or 9 to 98, is InvalidOpcode, with the field `w rem
100` and the word as detail and no mode digit looked at. The truncating remainder is the spec's decision D4. The detail
is its D11. -/
def Obligations.WordWithoutAKnownOpcodeIsInvalidOpcode : Prop :=
  (∀ w : Int, w < 0 →
    ∃ op, -99 ≤ op ∧ op ≤ 0 ∧ (∃ q, w = 100 * q + op) ∧ decode w = .error (.invalidOpcode op w)) ∧
  (∀ w op rest : Int, w = op + 100 * rest → 0 ≤ rest → (op = 0 ∨ 9 ≤ op ∧ op ≤ 98) →
    decode w = .error (.invalidOpcode op w))

/-- R58: whatever the opcode, all three mode digits are examined, and a digit 2 to 9 is InvalidMode even in a slot the
instruction lacks; so 20099 is InvalidMode(3, 2) and 1199 is a Halt; in slots the instruction does not read, the digits
0 and 1 have no effect on what it does. That slot 1 is reported before slot 2 and slot 2 before slot 3 is not R58's: it
is the loop of R57 and item 3 of R90, an order the spec lists as its own in decision D9 (log 13). -/
def Obligations.AllModeDigitsAreExaminedWhateverTheOpcode : Prop :=
  (∀ w op d1 d2 d3 rest : Int, w = op + 100 * d1 + 1000 * d2 + 10000 * d3 + 100000 * rest → 0 ≤ rest →
    (1 ≤ op ∧ op ≤ 8 ∨ op = 99) → 0 ≤ d1 → d1 ≤ 9 → 0 ≤ d2 → d2 ≤ 9 → 0 ≤ d3 → d3 ≤ 9 →
    (2 ≤ d1 → decode w = .error (.invalidMode .p1 d1)) ∧
    (d1 ≤ 1 → 2 ≤ d2 → decode w = .error (.invalidMode .p2 d2)) ∧
    (d1 ≤ 1 → d2 ≤ 1 → 2 ≤ d3 → decode w = .error (.invalidMode .p3 d3))) ∧
  decode 20099 = .error (.invalidMode .p3 2) ∧
  decode 1199 = .ok (.halt .immediate .immediate .positional) ∧
  (∀ (i j : Instr) (s : State), i.opcode = j.opcode → (∀ k, i.role k = .read → i.mode k = j.mode k) →
    exec i s = exec j s)

/-- R57, R60, R67: with mode digits 0 and 1, a 1 in the write slot (slot 3 of Add, Multiply, IsLessThan, IsEqual; slot
1 of Read) is InvalidWriteMode, and every other word is the instruction with that opcode and those modes. That the
write check comes after the mode digits is the spec's decision D9. -/
def Obligations.WordsWithModeDigitsZeroAndOneDecodeByTheTable : Prop :=
  ∀ w op d1 d2 d3 rest : Int, w = op + 100 * d1 + 1000 * d2 + 10000 * d3 + 100000 * rest → 0 ≤ rest →
    (1 ≤ op ∧ op ≤ 8 ∨ op = 99) → (d1 = 0 ∨ d1 = 1) → (d2 = 0 ∨ d2 = 1) → (d3 = 0 ∨ d3 = 1) →
    ((op = 1 ∨ op = 2 ∨ op = 7 ∨ op = 8) → d3 = 1 → decode w = .error (.invalidWriteMode .p3)) ∧
    (op = 3 → d1 = 1 → decode w = .error (.invalidWriteMode .p1)) ∧
    (((op = 1 ∨ op = 2 ∨ op = 7 ∨ op = 8) → d3 = 0) → (op = 3 → d1 = 0) →
      ∃ i : Instr, decode w = .ok i ∧ i.opcode = op ∧ (i.mode .p1).digit = d1 ∧ (i.mode .p2).digit = d2 ∧
        (i.mode .p3).digit = d3)

/-- R61: the opcode alone tells what a word is and how long: a decoded instruction has the opcode of the word's opcode
field, and two words with one opcode field that decode give one kind of instruction and one length, whatever their
modes; and modes change only how a read slot's operand is resolved: two instructions of one opcode whose read slots
resolve alike do the same. -/
def Obligations.ModesChangeOnlyHowAReadSlotIsResolved : Prop :=
  (∀ (w : Int) (i : Instr), decode w = .ok i → i.opcode = opcodeField w) ∧
  (∀ (w w' : Int) (i j : Instr), decode w = .ok i → decode w' = .ok j → opcodeField w = opcodeField w' →
    i.length = j.length ∧ ∀ k, i.role k = j.role k) ∧
  (∀ (i j : Instr) (s : State), i.opcode = j.opcode →
    (∀ k, i.role k = .read → resolve s k (i.mode k) = resolve s k (j.mode k)) → exec i s = exec j s)

/-- 95_test_vectors.md, sections 1 and 2.1: words written out from the encodings, one for each family and each decode
fault. A sanity statement. -/
def Obligations.RecordedWordsDecodeAsListed : Prop :=
  decode 1002 = .ok (.mul .positional .immediate .positional) ∧
  decode 1101 = .ok (.add .immediate .immediate .positional) ∧
  decode 3 = .ok (.read .positional .positional .positional) ∧
  decode 10004 = .ok (.print .positional .positional .immediate) ∧
  decode 1105 = .ok (.jnz .immediate .immediate .positional) ∧
  decode 1006 = .ok (.jz .positional .immediate .positional) ∧
  decode 1107 = .ok (.lt .immediate .immediate .positional) ∧
  decode 108 = .ok (.eq .immediate .positional .positional) ∧
  decode 99 = .ok (.halt .positional .positional .positional) ∧
  decode 11101 = .error (.invalidWriteMode .p3) ∧ decode 203 = .error (.invalidMode .p1 2) ∧
  decode 1198 = .error (.invalidOpcode 98 1198) ∧ decode (-1002) = .error (.invalidOpcode (-2) (-1002))

/-! ### The step, operands and faults before the handler -/

/-- R57 step 4: in RUNNING, when the word at `ip` decodes to an instruction, the step is that instruction's meaning at
that very state, but that the control input asserted at the step goes by without effect: `passControl` drops it and
changes nothing else (R27, log 5). -/
def Obligations.StepRunsTheDecodedInstruction : Prop :=
  ∀ (s : State) (w : Int) (i : Instr), s.status = .running → cellAt s.mem s.ip = some w → decode w = .ok i →
    step s = exec i s.passControl

/-- R57, R91: in RUNNING, an `ip` outside the tape raises OutOfBounds(ip), recorded as a fetch, and a word that is no
instruction raises the fault its decoding names; either is the fault entry and nothing else. The recorded detail is the
spec's decision D11 (log 14), that a negative `ip` is outside the tape D5, and that memory and `ip` stay where the
source does not say so D10 (log 13). The control input asserted at the step, `passControl`, goes by without effect
(R27, log 5). -/
def Obligations.FetchAndDecodeFaultsAreTaken : Prop :=
  ∀ s : State, s.status = .running →
    (s.ip < 0 ∨ (s.mem.length : Int) ≤ s.ip → step s = .next (s.passControl.faultedBy (.outOfBounds s.ip .fetch))) ∧
    (∀ w op v, cellAt s.mem s.ip = some w → decode w = .error (.invalidOpcode op v) →
      step s = .next (s.passControl.faultedBy (.invalidOpcode op v))) ∧
    (∀ w k d, cellAt s.mem s.ip = some w → decode w = .error (.invalidMode k d) →
      step s = .next (s.passControl.faultedBy (.invalidMode k d))) ∧
    (∀ w k, cellAt s.mem s.ip = some w → decode w = .error (.invalidWriteMode k) →
      step s = .next (s.passControl.faultedBy (.invalidWriteMode k)))

/-- R56: in any slot the digit 0 is Positional, 1 is Immediate and 2 to 9 raises InvalidMode; Positional means that the
operand is the cell the parameter addresses, Immediate that it is the parameter itself. -/
def Obligations.ModeDigitsSelectAddressOrValue : Prop :=
  (∀ (k : Slot) (w : Int),
    (modeDigit k w = 0 → decodeMode k w = .ok .positional) ∧ (modeDigit k w = 1 → decodeMode k w = .ok .immediate) ∧
    (2 ≤ modeDigit k w → modeDigit k w ≤ 9 → decodeMode k w = .error (.invalidMode k (modeDigit k w)))) ∧
  (∀ (s : State) (k : Slot) (raw : Int), cellAt s.mem (s.ip + k.number) = some raw →
    (∀ v, cellAt s.mem raw = some v → resolve s k .positional = .ok v) ∧ resolve s k .immediate = .ok raw)

/-- R62, R63: the faults of a slot: its parameter word past the tape, whatever its role and mode, and for a Positional
read slot the address the word names; and a write slot's target is its raw word, not dereferenced. That the parameter
word's access is recorded as a read is the model's choice (log 16). -/
def Obligations.SlotsFaultOutsideTheTape : Prop :=
  ∀ (s : State) (k : Slot),
    (cellAt s.mem (s.ip + k.number) = none →
      (∀ m, resolve s k m = .error (.outOfBounds (s.ip + k.number) .read)) ∧
      target s k = .error (.outOfBounds (s.ip + k.number) .read)) ∧
    (∀ raw, cellAt s.mem (s.ip + k.number) = some raw → target s k = .ok raw ∧
      (cellAt s.mem raw = none → resolve s k .positional = .error (.outOfBounds raw .read)))

/-- R9, R36, R37, R46: a read after a write to the same valid cell gives the word written, every other cell reads as
before, the length stays, and outside the tape both accesses raise OutOfBounds. That a negative address is outside is
the spec's decision D5. -/
def Obligations.MemoryReadsAndWritesOneCell : Prop :=
  ∀ (s : State) (a : Int) (v : Int),
    (0 ≤ a ∧ a < (s.mem.length : Int) → ∃ s', memWrite s a v = .ok s' ∧ s' = { s with mem := s'.mem } ∧
      s'.mem.length = s.mem.length ∧ (∀ acc, memRead s' acc a = .ok v) ∧
      ∀ b, b ≠ a → ∀ acc, memRead s' acc b = memRead s acc b) ∧
    (a < 0 ∨ (s.mem.length : Int) ≤ a → memWrite s a v = .error (.outOfBounds a .write) ∧
      ∀ acc, memRead s acc a = .error (.outOfBounds a acc))

/-! ### Arithmetic and comparison -/

/-- R6, R72: `wrap_W` gives the one word congruent to its argument modulo 2^W. Width and two's complement are the
spec's decisions D1 and D3. -/
def Obligations.WrapGivesTheOneCongruentWord : Prop :=
  ∀ (W : Nat) (v : Int), 1 ≤ W →
    IsWord W (wrapW W v) ∧ (2 ^ W : Int) ∣ wrapW W v - v ∧ ∀ r, IsWord W r → (2 ^ W : Int) ∣ r - v → r = wrapW W v

/-- R73, R72: Add stores the sum of its operands in its target cell and advances by 4. A sum that is not a word is
stored wrapped, or raises Overflow with the exact sum, by policy (the spec's decisions D1 and D2); the Overflow comes
whatever the target. The place of Overflow before OutOfBounds(t) is R90's, its decision D9; the least width is the
model's deduction (log 2). -/
def Obligations.AddStoresTheSum : Prop :=
  ∀ (s : State) (m1 m2 : Mode) (a b t : Int),
    operandAt s .p1 m1 = some a → operandAt s .p2 m2 = some b → targetAt s .p3 = some t →
    (IsWord s.cfg.wordBits (a + b) → s.mem.valid t = true →
      exec (.add m1 m2 .positional) s = .next { s with mem := s.mem.set t.toNat (a + b), ip := s.ip + 4 }) ∧
    (¬ IsWord s.cfg.wordBits (a + b) → s.cfg.overflow = .wrap → s.mem.valid t = true → s.cfg.Ok →
      ∃ r, IsWord s.cfg.wordBits r ∧ (2 ^ s.cfg.wordBits : Int) ∣ r - (a + b) ∧
        exec (.add m1 m2 .positional) s = .next { s with mem := s.mem.set t.toNat r, ip := s.ip + 4 }) ∧
    (¬ IsWord s.cfg.wordBits (a + b) → s.cfg.overflow = .fault →
      exec (.add m1 m2 .positional) s = .next (s.faultedBy (.overflow (a + b))))

/-- R74, R72: Multiply stores the product of its operands in its target cell and advances by 4; overflow as for Add
(the spec's decisions D1 and D2, its place before OutOfBounds(t) D9, and the least width log 2). -/
def Obligations.MulStoresTheProduct : Prop :=
  ∀ (s : State) (m1 m2 : Mode) (a b t : Int),
    operandAt s .p1 m1 = some a → operandAt s .p2 m2 = some b → targetAt s .p3 = some t →
    (IsWord s.cfg.wordBits (a * b) → s.mem.valid t = true →
      exec (.mul m1 m2 .positional) s = .next { s with mem := s.mem.set t.toNat (a * b), ip := s.ip + 4 }) ∧
    (¬ IsWord s.cfg.wordBits (a * b) → s.cfg.overflow = .wrap → s.mem.valid t = true → s.cfg.Ok →
      ∃ r, IsWord s.cfg.wordBits r ∧ (2 ^ s.cfg.wordBits : Int) ∣ r - (a * b) ∧
        exec (.mul m1 m2 .positional) s = .next { s with mem := s.mem.set t.toNat r, ip := s.ip + 4 }) ∧
    (¬ IsWord s.cfg.wordBits (a * b) → s.cfg.overflow = .fault →
      exec (.mul m1 m2 .positional) s = .next (s.faultedBy (.overflow (a * b))))

/-- R83, R11: IsLessThan stores 1 where its first operand is the smaller as a signed word, else 0, and advances by 4.
The signed reading is the spec's decision D3. -/
def Obligations.LtStoresTheSignedComparison : Prop :=
  ∀ (s : State) (m1 m2 : Mode) (a b t : Int),
    operandAt s .p1 m1 = some a → operandAt s .p2 m2 = some b → targetAt s .p3 = some t → s.mem.valid t = true →
    (a < b → exec (.lt m1 m2 .positional) s = .next { s with mem := s.mem.set t.toNat 1, ip := s.ip + 4 }) ∧
    (b ≤ a → exec (.lt m1 m2 .positional) s = .next { s with mem := s.mem.set t.toNat 0, ip := s.ip + 4 })

/-- R84, R11: IsEqual stores 1 where its operands are equal, else 0, and advances by 4. -/
def Obligations.EqStoresTheEquality : Prop :=
  ∀ (s : State) (m1 m2 : Mode) (a b t : Int),
    operandAt s .p1 m1 = some a → operandAt s .p2 m2 = some b → targetAt s .p3 = some t → s.mem.valid t = true →
    (a = b → exec (.eq m1 m2 .positional) s = .next { s with mem := s.mem.set t.toNat 1, ip := s.ip + 4 }) ∧
    (a ≠ b → exec (.eq m1 m2 .positional) s = .next { s with mem := s.mem.set t.toNat 0, ip := s.ip + 4 })

/-- R90 step 5 and the OutOfBounds(t) of step 6, for Add, Multiply, IsLessThan and IsEqual: slot 1's fault, else slot
2's, else slot 3's parameter word, else (no Overflow being raised) a target outside the tape, each the fault entry and
nothing else. The order is the spec's decision D9; that a parameter word past the tape is recorded as a read is the
model's deduction (log 16); Overflow before OutOfBounds(t) is in AddStoresTheSum and MulStoresTheProduct. That a fault
leaves memory and `ip` is R91, with the spec's decision D10 where the source does not say so. -/
def Obligations.ThreeOperandFaultsComeInSlotOrder : Prop :=
  ∀ (s : State) (m1 m2 : Mode) (i : Instr),
    i ∈ [.add m1 m2 .positional, .mul m1 m2 .positional, .lt m1 m2 .positional, .eq m1 m2 .positional] →
    (∀ x, operandFaultAt s .p1 m1 = some x → exec i s = .next (s.faultedBy (.outOfBounds x .read))) ∧
    (∀ a x, operandAt s .p1 m1 = some a → operandFaultAt s .p2 m2 = some x →
      exec i s = .next (s.faultedBy (.outOfBounds x .read))) ∧
    (∀ a b, operandAt s .p1 m1 = some a → operandAt s .p2 m2 = some b → targetAt s .p3 = none →
      exec i s = .next (s.faultedBy (.outOfBounds (s.ip + 3) .read))) ∧
    (∀ a b t, operandAt s .p1 m1 = some a → operandAt s .p2 m2 = some b → targetAt s .p3 = some t →
      s.mem.valid t = false → (i.opcode = 1 → IsWord s.cfg.wordBits (a + b) ∨ s.cfg.overflow = .wrap) →
      (i.opcode = 2 → IsWord s.cfg.wordBits (a * b) ∨ s.cfg.overflow = .wrap) →
      exec i s = .next (s.faultedBy (.outOfBounds t .write)))

/-- R73, R74, R83, R84 ("Only cell t changes"), the frame of Add, Multiply, IsLessThan and IsEqual on every path: no
cell but the target slot 3 names, not the tape's length, no port, no parameter, no control input; and either the fault
entry alone is taken or status and fault record stay and `ip` advances by 4. The latter of a fault is R91, with the
spec's decision D10. -/
def Obligations.ThreeOperandInstructionsChangeOnlyTheirTarget : Prop :=
  ∀ (s s' : State) (m1 m2 : Mode) (i : Instr),
    i ∈ [.add m1 m2 .positional, .mul m1 m2 .positional, .lt m1 m2 .positional, .eq m1 m2 .positional] →
    exec i s = .next s' →
    (∀ a, targetAt s .p3 ≠ some a → cellAt s'.mem a = cellAt s.mem a) ∧ s'.mem.length = s.mem.length ∧
    s'.cfg = s.cfg ∧ s'.input = s.input ∧ s'.consumed = s.consumed ∧ s'.sink = s.sink ∧ s'.output = s.output ∧
    s'.control = s.control ∧ s'.draws = s.draws ∧
    ((∃ c, s' = s.faultedBy c) ∨ s'.status = s.status ∧ s'.fault = s.fault ∧ s'.ip = s.ip + 4)

/-! ### Jumps and Halt -/

/-- R80: JumpNZ loads its second operand, an absolute address not checked here, where its first is nonzero, and
advances by 3 where it is zero; nothing else changes. That it does not check is the spec's decision D6. -/
def Obligations.JnzLoadsItsTargetWhenNonzero : Prop :=
  ∀ (s : State) (m1 m2 m3 : Mode) (c t : Int),
    operandAt s .p1 m1 = some c → operandAt s .p2 m2 = some t →
    (c ≠ 0 → exec (.jnz m1 m2 m3) s = .next { s with ip := t }) ∧
    (c = 0 → exec (.jnz m1 m2 m3) s = .next { s with ip := s.ip + 3 })

/-- R81: JumpZ, the same with the test for zero (D6). -/
def Obligations.JzLoadsItsTargetWhenZero : Prop :=
  ∀ (s : State) (m1 m2 m3 : Mode) (c t : Int),
    operandAt s .p1 m1 = some c → operandAt s .p2 m2 = some t →
    (c = 0 → exec (.jz m1 m2 m3) s = .next { s with ip := t }) ∧
    (c ≠ 0 → exec (.jz m1 m2 m3) s = .next { s with ip := s.ip + 3 })

/-- R65, R80, R81, R90: a jump's first slot faults first, and its second slot faults whether or not the branch would be
taken (the eager resolution of decision D8, the order of D9). That a parameter word past the tape is recorded as a read
is the model's deduction (log 16). That a fault leaves `ip` is the spec's decision D10. -/
def Obligations.JumpsResolveBothSlotsBeforeBranching : Prop :=
  ∀ (s : State) (m1 m2 m3 : Mode) (i : Instr), i ∈ [.jnz m1 m2 m3, .jz m1 m2 m3] →
    (∀ x, operandFaultAt s .p1 m1 = some x → exec i s = .next (s.faultedBy (.outOfBounds x .read))) ∧
    (∀ c x, operandAt s .p1 m1 = some c → operandFaultAt s .p2 m2 = some x →
      exec i s = .next (s.faultedBy (.outOfBounds x .read)))

/-- R80, R81: the frame of the jumps on every path: they never write memory; they change `ip` alone, or take the fault
entry of an OutOfBounds read alone. That a parameter word past the tape is recorded as a read too is the model's
deduction (log 16). That a fault leaves `ip` is the spec's decision D10. -/
def Obligations.JumpsChangeOnlyTheInstructionPointer : Prop :=
  ∀ (s s' : State) (m1 m2 m3 : Mode) (i : Instr), i ∈ [.jnz m1 m2 m3, .jz m1 m2 m3] → exec i s = .next s' →
    (∀ a, cellAt s'.mem a = cellAt s.mem a) ∧
    (s' = { s with ip := s'.ip } ∨ ∃ x, s' = s.faultedBy (.outOfBounds x .read))

/-- R18, R80: a taken jump to an address outside the tape loads it without fault, and the next step's fetch raises
OutOfBounds of that address with `fault_ip` the target: the spec's decision D6. The control input asserted at the step,
`passControl`, goes by without effect (R27, log 5). -/
def Obligations.JumpOutsideTheTapeFaultsAtTheNextFetch : Prop :=
  ∀ (s : State) (m1 m2 m3 : Mode) (c t : Int), s.status = .running → s.instrAt = some (.jnz m1 m2 m3) →
    operandAt s .p1 m1 = some c → c ≠ 0 → operandAt s .p2 m2 = some t → s.mem.valid t = false →
    step s = .next { s.passControl with ip := t } ∧
    step { s.passControl with ip := t } =
      .next { s.passControl.passControl with ip := t, status := .faulted, fault := some { cause := .outOfBounds t .fetch, faultIp := t } }

/-- R85: Halt sets HALTED and changes nothing else; that `ip` keeps the Halt word's address is the spec's decision
D7. -/
def Obligations.HaltSetsHaltedAndNothingElse : Prop :=
  ∀ (s : State) (m1 m2 m3 : Mode), exec (.halt m1 m2 m3) s = .next { s with status := .halted }

/-! ### Input and output -/

/-- R75, R76: a Read with a valid target whose port answers with a line that denotes a word stores that word in the
target cell, has consumed exactly that line, advances by 2 and is RUNNING; so does the step of a Read that was waiting
with that target. The grammar is R76's (decision D12). That an answer at the first poll completes the Read in one step,
and that a wait carries its target, are the model's choice (log 8). At that step the control input goes by without
effect (log 5). -/
def Obligations.ReadStoresTheWordOnTheLine : Prop :=
  ∀ (s : State) (t v : Int) (l : Line) (es : List InputEvent),
    s.mem.valid t = true → s.input.events = .line l :: es → parseWord s.cfg.wordBits l = some v →
    (∀ m2 m3, targetAt s .p1 = some t →
      exec (.read .positional m2 m3) s =
        .next { s with mem := s.mem.set t.toNat v, ip := s.ip + 2, status := .running,
                       input := { events := es, rest := s.input.rest }, consumed := s.consumed ++ [l] }) ∧
    (s.status = .waitIn t →
      step s =
        .next { s.passControl with mem := s.mem.set t.toNat v, ip := s.ip + 2, status := .running,
                                   input := { events := es, rest := s.input.rest }, consumed := s.consumed ++ [l] })

/-- R75, R90, R92: the faults of a Read but for an invalid target: its parameter word past the tape, so that it has no
target (no request made), and, its target valid, EndOfInput (no line consumed) and a malformed line (that line
consumed); memory and `ip` stay. That a malformed line is consumed, and that memory and `ip` stay where the source does
not say so, are the spec's decision D10 (log 13); that the parameter word past the tape is recorded as a read is the
model's deduction (log 16). -/
def Obligations.ReadFaultsWithoutStoring : Prop :=
  ∀ (s : State) (m2 m3 : Mode),
    (targetAt s .p1 = none →
      exec (.read .positional m2 m3) s = .next (s.faultedBy (.outOfBounds (s.ip + 1) .read))) ∧
    (∀ t, targetAt s .p1 = some t → s.mem.valid t = true →
      (s.input.events = [] → s.input.rest = .endOfInput →
        exec (.read .positional m2 m3) s = .next (s.faultedBy (.badInput .endOfInput))) ∧
      (∀ l es, s.input.events = .line l :: es → parseWord s.cfg.wordBits l = none →
        exec (.read .positional m2 m3) s =
          .next ({ s with input := { events := es, rest := s.input.rest }, consumed := s.consumed ++ [l] }.faultedBy
            (.badInput .malformed))))

/-- R75, R92: the faults of a Read that was waiting, its target valid or not: EndOfInput and a malformed line, and, the
line being good, OutOfBounds(t) for a target outside the tape. That a malformed line is consumed is the spec's decision
D10 (log 13), and so is that a Read with an invalid target may have made its request and consumed a line before
OutOfBounds(t): one side of the draw of R75 (log 11). That a wait carries its target is the model's choice (log 8). The
control input asserted at the step, `passControl`, goes by without effect (R27, log 5). -/
def Obligations.WaitingReadFaultsOnItsAnswer : Prop :=
  ∀ (s : State) (t : Int), s.status = .waitIn t →
    (s.input.events = [] → s.input.rest = .endOfInput → step s = .next (s.passControl.faultedBy (.badInput .endOfInput))) ∧
    (∀ l es, s.input.events = .line l :: es → parseWord s.cfg.wordBits l = none →
      step s = .next ({ s.passControl with input := { events := es, rest := s.input.rest }, consumed := s.consumed ++ [l] }.faultedBy
        (.badInput .malformed))) ∧
    (∀ l es v, s.input.events = .line l :: es → parseWord s.cfg.wordBits l = some v → s.mem.valid t = false →
      step s = .next ({ s.passControl with input := { events := es, rest := s.input.rest }, consumed := s.consumed ++ [l] }.faultedBy
        (.outOfBounds t .write)))

/-- R75: a Read whose target is not valid either faults at once, the input untouched, or makes its request first: then
EndOfInput and a malformed line are BadInput, a good line is consumed and OutOfBounds(t) follows, and no answer yet is
a wait. The spec leaves the choice to a draw (D10); this holds whatever is drawn, and `draws` is the model's own
counter (log 11). That a step is one poll and a wait carries its target is the model's choice (log 8). -/
def Obligations.ReadWithAnInvalidTargetFaultsEitherWay : Prop :=
  ∀ (s d : State) (m2 m3 : Mode) (t : Int), targetAt s .p1 = some t → s.mem.valid t = false →
    d = { s with draws := s.draws + 1 } →
    exec (.read .positional m2 m3) s = .next (d.faultedBy (.outOfBounds t .write)) ∨
    ((s.input.events = [] → s.input.rest = .endOfInput →
        exec (.read .positional m2 m3) s = .next (d.faultedBy (.badInput .endOfInput))) ∧
      (s.input.events = [] → s.input.rest = .silent →
        exec (.read .positional m2 m3) s = .next { d with status := .waitIn t }) ∧
      (∀ es, s.input.events = .notYet :: es →
        exec (.read .positional m2 m3) s =
          .next { d with status := .waitIn t, input := { events := es, rest := s.input.rest } }) ∧
      (∀ l es, s.input.events = .line l :: es → parseWord s.cfg.wordBits l = none →
        exec (.read .positional m2 m3) s =
          .next ({ d with input := { events := es, rest := s.input.rest }, consumed := s.consumed ++ [l] }.faultedBy
            (.badInput .malformed))) ∧
      (∀ l es v, s.input.events = .line l :: es → parseWord s.cfg.wordBits l = some v →
        exec (.read .positional m2 m3) s =
          .next ({ d with input := { events := es, rest := s.input.rest }, consumed := s.consumed ++ [l] }.faultedBy
            (.outOfBounds t .write))))

/-- R75, R77: the frame of Read and Print on every path, fault and wait included: a Read changes no cell but the one
slot 1 names, consumes at most one line, and touches neither the sink nor the output; a Print changes no cell and does
not touch the input; neither changes the tape's length, the parameters or the control inputs. The form of the wait is
the model's choice (log 8). -/
def Obligations.ReadAndPrintChangeOnlyTheirOwn : Prop :=
  ∀ (s s' : State) (m1 m2 m3 : Mode),
    (exec (.read .positional m2 m3) s = .next s' →
      (∀ a, targetAt s .p1 ≠ some a → cellAt s'.mem a = cellAt s.mem a) ∧ s'.mem.length = s.mem.length ∧
      s'.sink = s.sink ∧ s'.output = s.output ∧ s'.cfg = s.cfg ∧ s'.control = s.control ∧
      (s'.consumed = s.consumed ∨ ∃ l, s'.consumed = s.consumed ++ [l])) ∧
    (exec (.print m1 m2 m3) s = .next s' →
      (∀ a, cellAt s'.mem a = cellAt s.mem a) ∧ s'.mem.length = s.mem.length ∧
      s'.input = s.input ∧ s'.consumed = s.consumed ∧ s'.cfg = s.cfg ∧ s'.control = s.control ∧
      s'.draws = s.draws ∧
      (s'.output = s.output ∨ ∃ v, operandAt s .p1 m1 = some v ∧ s'.output = s.output ++ [printLine v]))

/-- R77: a Print whose sink accepts delivers exactly the one line of its operand, advances by 2 and is RUNNING; so does
the step of a Print that was waiting with that value. The line's characters are the spec's decision D13 (log 14); that
an answer at the first poll completes the Print in one step, and that a wait carries its value, are the model's choice
(log 8). At that step the control input goes by without effect (log 5). -/
def Obligations.PrintDeliversItsLine : Prop :=
  ∀ (s : State) (v : Int) (k : Sink),
    ((∃ as, s.sink.answers = .accepted :: as ∧ k = { answers := as, rest := s.sink.rest }) ∨
      s.sink.answers = [] ∧ s.sink.rest = .accepted ∧ k = s.sink) →
    (∀ m1 m2 m3, operandAt s .p1 m1 = some v →
      exec (.print m1 m2 m3) s =
        .next { s with ip := s.ip + 2, status := .running, sink := k, output := s.output ++ [printLine v] }) ∧
    (s.status = .waitOut v →
      step s = .next { s.passControl with ip := s.ip + 2, status := .running, sink := k, output := s.output ++ [printLine v] })

/-- R77, R32: the faults of a Print: its slot's OutOfBounds (no offer made), and OutputFailed where the sink answers
Failed (decision D14), at once or after a wait. Recording no line for the latter is the model's choice (log 15), and so
is that a wait carries its value (log 8); that a parameter word past the tape is recorded as a read is its deduction
(log 16); that `ip` stays is the spec's decision D10. At the step of a wait the control input goes by without effect
(log 5). -/
def Obligations.PrintFaultsWithoutALine : Prop :=
  (∀ (s : State) (m1 m2 m3 : Mode) (x : Int), operandFaultAt s .p1 m1 = some x →
    exec (.print m1 m2 m3) s = .next (s.faultedBy (.outOfBounds x .read))) ∧
  (∀ (s : State) (v : Int) (k : Sink),
    ((∃ as, s.sink.answers = .failed :: as ∧ k = { answers := as, rest := s.sink.rest }) ∨
      s.sink.answers = [] ∧ s.sink.rest = .failed ∧ k = s.sink) →
    (∀ m1 m2 m3, operandAt s .p1 m1 = some v →
      exec (.print m1 m2 m3) s = .next ({ s with sink := k }.faultedBy .outputFailed)) ∧
    (s.status = .waitOut v → step s = .next ({ s.passControl with sink := k }.faultedBy .outputFailed)))

/-- R22, R30, R32: a Read with a valid target whose port has not answered waits in WAIT_IN, a Print whose sink has not
answered waits in WAIT_OUT, `ip` and all but the position in the answers as they were. Keeping the resolved operand
with the status is the model's choice (log 8). -/
def Obligations.AnUnansweredPortMakesItsInstructionWait : Prop :=
  (∀ (s : State) (m2 m3 : Mode) (t : Int), targetAt s .p1 = some t → s.mem.valid t = true →
    (∀ es, s.input.events = .notYet :: es → exec (.read .positional m2 m3) s =
      .next { s with status := .waitIn t, input := { events := es, rest := s.input.rest } }) ∧
    (s.input.events = [] → s.input.rest = .silent →
      exec (.read .positional m2 m3) s = .next { s with status := .waitIn t })) ∧
  (∀ (s : State) (m1 m2 m3 : Mode) (v : Int), operandAt s .p1 m1 = some v →
    (∀ as, s.sink.answers = .notYet :: as → exec (.print m1 m2 m3) s =
      .next { s with status := .waitOut v, sink := { answers := as, rest := s.sink.rest } }) ∧
    (s.sink.answers = [] → s.sink.rest = .notYet →
      exec (.print m1 m2 m3) s = .next { s with status := .waitOut v }))

/-- R79: only Read and Print touch the ports and only they wait; and while one waits and its port has not answered, the
step does nothing but wait on: no instruction is executed and no other state changes. That a wait survives unchanged is
R102; that a step of it is one poll of the port, an answer not yet given being one entry of the answers passed, is the
model's choice (log 8). The control input asserted at the step, `passControl`, goes by without effect (R27, log 5). -/
def Obligations.OnlyReadAndPrintTouchThePortsOrWait : Prop :=
  (∀ (i : Instr) (s s' : State), exec i s = .next s' →
    (i.opcode ≠ 3 → s'.input = s.input ∧ s'.consumed = s.consumed ∧
      ∀ t, s'.status = .waitIn t → s.status = .waitIn t) ∧
    (i.opcode ≠ 4 → s'.sink = s.sink ∧ s'.output = s.output ∧ ∀ v, s'.status = .waitOut v → s.status = .waitOut v)) ∧
  (∀ (s : State) (t : Int), s.status = .waitIn t →
    (∀ es, s.input.events = .notYet :: es → step s = .next { s.passControl with input := { events := es, rest := s.input.rest } }) ∧
    (s.input.events = [] → s.input.rest = .silent → step s = .next s.passControl)) ∧
  (∀ (s : State) (v : Int), s.status = .waitOut v →
    (∀ as, s.sink.answers = .notYet :: as → step s = .next { s.passControl with sink := { answers := as, rest := s.sink.rest } }) ∧
    (s.sink.answers = [] → s.sink.rest = .notYet → step s = .next s.passControl))

/-- R30: a waiting Read is in WAIT_IN until the source answers, with no timeout, all else unchanged: for as many polls
as the source is late, and for ever where it never answers. That a step is one poll is the model's choice (log 8). The
control inputs asserted meanwhile go by without effect (log 5). -/
def Obligations.AnInputRequestWaitsUntilItIsAnswered : Prop :=
  ∀ (n : Nat) (s : State) (t : Int), s.status = .waitIn t →
    (∀ es, s.input.events = List.replicate n .notYet ++ es →
      Sys2Proof.core.run n s = .next { s with control := s.control.drop n, input := { events := es, rest := s.input.rest } }) ∧
    (s.input.events = [] → s.input.rest = .silent → Sys2Proof.core.run n s = .next { s with control := s.control.drop n })

/-- R32: the same of a waiting Print and its sink (log 8 too). The control inputs asserted meanwhile go by without
effect (log 5). -/
def Obligations.AnOutputOfferWaitsUntilItIsAnswered : Prop :=
  ∀ (n : Nat) (s : State) (v : Int), s.status = .waitOut v →
    (∀ as, s.sink.answers = List.replicate n .notYet ++ as →
      Sys2Proof.core.run n s = .next { s with control := s.control.drop n, sink := { answers := as, rest := s.sink.rest } }) ∧
    (s.sink.answers = [] → s.sink.rest = .notYet → Sys2Proof.core.run n s = .next { s with control := s.control.drop n })

/-- R30, R102: how long a port takes to answer makes no difference: a Read whose source is silent for k polls and then
gives a line or EndOfInput reaches, k steps later, the state it reaches when the source answers at once; and so a
Print. That lateness is a number of polls, one a step, is the model's choice (log 8). The control inputs asserted
meanwhile go by without effect (log 5). -/
def Obligations.LateAnswersChangeNothingButTime : Prop :=
  ∀ (k : Nat) (s : State), s.status = .running →
    (∀ m1 m2 m3 t es, s.instrAt = some (.read m1 m2 m3) → targetAt s .p1 = some t → s.mem.valid t = true →
      (∀ es', es ≠ .notYet :: es') → (es = [] → s.input.rest = .endOfInput) →
      s.input.events = List.replicate k .notYet ++ es →
      Sys2Proof.core.run (k + 1) s = step { s with control := s.control.drop k, input := { events := es, rest := s.input.rest } }) ∧
    (∀ m1 m2 m3 v as, s.instrAt = some (.print m1 m2 m3) → operandAt s .p1 m1 = some v →
      (∀ as', as ≠ .notYet :: as') → (as = [] → s.sink.rest ≠ .notYet) →
      s.sink.answers = List.replicate k .notYet ++ as →
      Sys2Proof.core.run (k + 1) s = step { s with control := s.control.drop k, sink := { answers := as, rest := s.sink.rest } })

/-- R76: a line denotes a word exactly when it is an optional sign and one or more ASCII decimal digits, nothing else,
and the integer so written is a word (decision D12). -/
def Obligations.ALineDenotesAWordExactlyByTheGrammar : Prop :=
  ∀ (W : Nat) (l : Line) (v : Int),
    parseWord W l = some v ↔
      IsWord W v ∧ ∃ sign digits : Line, l = sign ++ digits ∧ digits ≠ [] ∧
        (∀ c ∈ digits, c ∈ ['0', '1', '2', '3', '4', '5', '6', '7', '8', '9']) ∧
        ((sign = [] ∨ sign = ['+']) ∧ v = (digits.foldl (fun n c => 10 * n + (c.toNat - 48)) 0 : Nat) ∨
          sign = ['-'] ∧ v = -((digits.foldl (fun n c => 10 * n + (c.toNat - 48)) 0 : Nat) : Int))

/-- R78: the line a Print offers is a `-` exactly for a negative value, the digits of the magnitude with no leading
zeros (0 being the single digit 0), and LF (decision D13). -/
def Obligations.APrintedLineIsTheCanonicalDecimal : Prop :=
  ∀ v : Int, ∃ digits : Line, printLine v = (if v < 0 then ['-'] else []) ++ digits ++ ['\n'] ∧ digits ≠ [] ∧
    (∀ c ∈ digits, c ∈ ['0', '1', '2', '3', '4', '5', '6', '7', '8', '9']) ∧
    (digits.head? = some '0' → digits = ['0']) ∧
    digits.foldl (fun n c => 10 * n + (c.toNat - 48)) 0 = v.natAbs

/-- R76, R78: what Print writes, Read reads back: the line a Print offers for a word, its terminator removed, denotes
that word, at every width. Rests on decisions D12 and D13. -/
def Obligations.WhatPrintWritesReadReadsBack : Prop :=
  ∀ (W : Nat) (v : Int), IsWord W v → ∃ l : Line, printLine v = l ++ ['\n'] ∧ parseWord W l = some v

/-! ### Faults, control inputs, the end of a run -/

/-- R88: the seven codes (decision D11), and R91's fault entry: `raise` sets FAULTED and the record with `fault_ip =
ip`, leaving all else. That a fault leaves memory and `ip` where the source does not say so is the spec's decision D10;
that it is a next state is the model's deduction (log 7). -/
def Obligations.RaisingAFaultFillsTheRecord : Prop :=
  (∀ (c : FaultCause) (s : State),
    raise c s = { s with status := .faulted, fault := some { cause := c, faultIp := s.ip } }) ∧
  (∀ op w, (FaultCause.invalidOpcode op w).kind.code = 1) ∧ (∀ k d, (FaultCause.invalidMode k d).kind.code = 2) ∧
  (∀ k, (FaultCause.invalidWriteMode k).kind.code = 3) ∧ (∀ a x, (FaultCause.outOfBounds a x).kind.code = 4) ∧
  (∀ b, (FaultCause.badInput b).kind.code = 5) ∧ FaultCause.outputFailed.kind.code = 6 ∧
  (∀ x, (FaultCause.overflow x).kind.code = 7)

/-- R91: faults are precise: whatever step of a run ends in FAULTED leaves `ip` and memory as they were, delivers no
line, and records the `ip` of the faulting instruction. The spec marks the cases its source does not name as D10. R91
does not speak of the output: that no line is delivered is R92's ("no other fault touches a port") for every fault but
OutputFailed, of which R92 lets the sink have taken part of the line; that the model records no line of it is the
model's choice (log 15, after I17). The control input asserted at the step goes by without effect (log 5). -/
def Obligations.FaultsArePrecise : Prop :=
  ∀ s s' : State, s.status.inRun = true → step s = .next s' → s'.status = .faulted →
    s'.ip = s.ip ∧ s'.mem = s.mem ∧ s'.output = s.output ∧ s'.cfg = s.cfg ∧ s'.control = s.control.tail ∧
      ∃ c, s'.fault = some { cause := c, faultIp := s.ip }

/-- R92: which faults touch a port: only OutputFailed moves the sink; only a BadInput, or the OutOfBounds write of a
Read, moves the input; only a malformed line, or a Read's OutOfBounds write, leaves a line consumed. Rests on decisions
D10 and D14. The draw of a Read with an invalid target is log 11. -/
def Obligations.FaultsTouchPortsOnlyAsListed : Prop :=
  ∀ (s s' : State) (r : FaultRecord), s.status.inRun = true → step s = .next s' → s'.status = .faulted →
    s'.fault = some r →
    (r.cause ≠ .outputFailed → s'.sink = s.sink) ∧
    (r.cause.kind ≠ .badInput → (∀ t, r.cause ≠ .outOfBounds t .write) →
      s'.input = s.input ∧ s'.consumed = s.consumed) ∧
    (∀ t, r.cause = .outOfBounds t .write → s'.input = s.input ∧ s'.consumed = s.consumed ∨
      (∃ t', s.status = .waitIn t') ∨ ∃ m1 m2 m3, s.instrAt = some (.read m1 m2 m3)) ∧
    (r.cause = .badInput .endOfInput → s'.consumed = s.consumed)

/-- R89 (marked derived): which instruction can raise which fault once it is decoded: OutOfBounds by all but Halt,
BadInput by Read alone, OutputFailed by Print alone, Overflow by Add and Multiply alone and under the fault policy
alone, and Halt none. OutputFailed is the spec's decision D14 and Overflow its D2. -/
def Obligations.EachInstructionRaisesOnlyItsOwnFaults : Prop :=
  ∀ (i : Instr) (s s' : State), s.status = .running → exec i s = .next s' → s'.status = .faulted →
    ∃ r, s'.fault = some r ∧ i.opcode ≠ 99 ∧
      (r.cause.kind = .outOfBounds ∨ r.cause.kind = .badInput ∧ i.opcode = 3 ∨
        r.cause.kind = .outputFailed ∧ i.opcode = 4 ∨
        r.cause.kind = .overflow ∧ (i.opcode = 1 ∨ i.opcode = 2) ∧ s.cfg.overflow = .fault)

/-- R17, R60: the `ip` a completed instruction loads, by the tables: `ip` + length for all but the jumps, and for these
the second operand or `ip` + 3. A Read or Print that has not completed, a Halt and any fault load none (decisions D7
and D10). The form of the wait is the model's choice (log 8). -/
def Obligations.EachInstructionLoadsTheNextIpOfTheTable : Prop :=
  (∀ i : Instr, (i.length = 4 ↔ i.opcode = 1 ∨ i.opcode = 2 ∨ i.opcode = 7 ∨ i.opcode = 8) ∧
    (i.length = 2 ↔ i.opcode = 3 ∨ i.opcode = 4) ∧ (i.length = 3 ↔ i.opcode = 5 ∨ i.opcode = 6) ∧
    (i.length = 1 ↔ i.opcode = 99)) ∧
  (∀ (i : Instr) (s s' : State), s.status = .running → exec i s = .next s' →
    (s'.status = .running → (i.opcode ≠ 5 ∧ i.opcode ≠ 6 ∧ s'.ip = s.ip + i.length) ∨
      ∃ c t, operandAt s .p1 (i.mode .p1) = some c ∧ operandAt s .p2 (i.mode .p2) = some t ∧
        (i.opcode = 5 ∧ s'.ip = (if c ≠ 0 then t else s.ip + 3) ∨
         i.opcode = 6 ∧ s'.ip = (if c = 0 then t else s.ip + 3))) ∧
    (s'.status ≠ .running → s'.ip = s.ip))

/-- R50, R46: a write is seen by the very next fetch: an Add whose target is the word behind it, and a Read whose
target is the word behind it, put there the opcode word the next step executes. That the Read completes in one step
when its line is there is the model's choice (log 8). `passControl` drops the control input asserted at the step (log
5). -/
def Obligations.AStoredOpcodeWordIsExecutedNext : Prop :=
  (∀ (s : State) (m1 m2 : Mode) (a b t : Int) (j : Instr), s.status = .running →
    s.instrAt = some (.add m1 m2 .positional) → operandAt s .p1 m1 = some a → operandAt s .p2 m2 = some b →
    targetAt s .p3 = some t → t = s.ip + 4 → s.mem.valid t = true → IsWord s.cfg.wordBits (a + b) →
    decode (a + b) = .ok j → ∃ s', step s = .next s' ∧ s'.ip = t ∧ step s' = exec j s'.passControl) ∧
  (∀ (s : State) (m2 m3 : Mode) (t v : Int) (l : Line) (es : List InputEvent) (j : Instr), s.status = .running →
    s.instrAt = some (.read .positional m2 m3) → targetAt s .p1 = some t → t = s.ip + 2 → s.mem.valid t = true →
    s.input.events = .line l :: es → parseWord s.cfg.wordBits l = some v → decode v = .ok j →
    ∃ s', step s = .next s' ∧ s'.ip = t ∧ step s' = exec j s'.passControl)

/-- R45: memory has the same size for the whole run, and a write outside it faults and does not grow it. -/
def Obligations.MemoryIsNeverResizedInARun : Prop :=
  (∀ s s' : State, s.status.inRun = true → step s = .next s' → s'.mem.length = s.mem.length) ∧
  (∀ (s : State) (a : Int) (v : Int), (s.mem.length : Int) ≤ a → memWrite s a v = .error (.outOfBounds a .write))

/-- R93: FAULTED is terminal: without an `init` among the control inputs no number of steps changes anything but the
control inputs gone by; `init` leaves it and starts anew from its image. That a `run` has no effect here is the spec's
decision D20; READY at `ip` 0 after `init` is R103 with decision D19. That a control input acts at the step it is
asserted at is the model's choice (log 5), that a step without one changes nothing its deduction (log 6), and that
`init` keeps the ports and the lines consumed and delivered is its choice (log 12). -/
def Obligations.OnlyInitLeavesFaulted : Prop :=
  ∀ s : State, s.status = .faulted →
    ((∀ image, Control.init image ∉ s.control) →
      ∀ n, Sys2Proof.core.run n s = .next { s with control := s.control.drop n }) ∧
    (∀ image cs, s.control = .init image :: cs → (∀ v ∈ image, IsWord s.cfg.wordBits v) →
      step s = .next { s with mem := image, ip := 0, status := .ready, fault := none, control := cs })

/-- R86: HALTED is terminal in the same way: no further instruction is fetched, `run` has no effect (decision D20), and
memory, `ip`, consumed input and produced output stay. That a control input acts at the step it is asserted at is the
model's choice (log 5), and that a step without one changes nothing its deduction (log 6). -/
def Obligations.HaltedStaysUntilInit : Prop :=
  ∀ s : State, s.status = .halted → (∀ image, Control.init image ∉ s.control) →
    ∀ n, Sys2Proof.core.run n s = .next { s with control := s.control.drop n }

/-- R27, R103, R104, R105, R106: from any state outside a run, `init` of an image of words and then `run` take two
steps to RUNNING at `ip` 0 with the image as memory and the fault record empty; of the empty image the third step
raises OutOfBounds(0) at the fetch; an image with a non-word is refused. The start at 0 is decision D19, the refusal
D24. That a control input acts at the step it is asserted at is the model's choice (log 5), and so is that `init` keeps
the ports and the lines consumed and delivered (log 12). -/
def Obligations.InitAndRunStartTheImage : Prop :=
  ∀ (s : State) (image : List Int) (cs : List Control), s.status.inRun = false →
    ((∀ v ∈ image, IsWord s.cfg.wordBits v) → s.control = .init image :: .run :: cs →
      Sys2Proof.core.run 2 s =
        .next { s with mem := image, ip := 0, status := .running, fault := none, control := cs } ∧
      (image = [] → Sys2Proof.core.run 3 s =
        .next { s with mem := [], ip := 0, status := .faulted, control := cs.tail,
                       fault := some { cause := .outOfBounds 0 .fetch, faultIp := 0 } })) ∧
    (∀ v ∈ image, ¬ IsWord s.cfg.wordBits v → s.control = .init image :: cs →
      step s = .refused .imageWordOutOfRange)

/-- R27, R22: `run` starts a run in READY and has no effect in any other status (decision D20): in HALTED and FAULTED
nothing else changes, and in RUNNING, WAIT_IN and WAIT_OUT the step is the one it is with nothing asserted; READY is
left by nothing else than a control input. That a control input acts at the step it is asserted at is the model's
choice (log 5), and that a step without one changes nothing its deduction (log 6). -/
def Obligations.RunStartsARunOnlyInReady : Prop :=
  ∀ (s : State) (cs : List Control),
    (s.status = .ready → s.control = .run :: cs → step s = .next { s with status := .running, control := cs }) ∧
    (s.status.ended = true → s.control = .run :: cs → step s = .next { s with control := cs }) ∧
    (s.status.inRun = true → s.control = .run :: cs → step s = step { s with control := .idle :: cs }) ∧
    (s.status = .ready → s.control = .idle :: cs → step s = .next { s with control := cs }) ∧
    (s.status = .ready → s.control = [] → step s = .next s)

/-- R27, R28: a step of a run does the same whatever is asserted on the control inputs at it and after it: neither `run`
nor `init` has an effect in RUNNING, WAIT_IN and WAIT_OUT, and what is asserted at the step is gone after it, so that
nothing asserted in a run acts later. Of `run` this is R27 with the spec's decision D20; of `init` it is the model's
choice (log 5), after R22, R28 and R95. -/
def Obligations.ControlInputsHaveNoEffectInARun : Prop :=
  ∀ (s s' : State) (cs : List Control), s.status.inRun = true → step s = .next s' →
    s'.control = s.control.tail ∧ step { s with control := cs } = .next { s' with control := cs.tail }

/-- R103: right after reset `ip` is 0, the status READY, the fault record empty, no request or offer outstanding; and
the machine stays there until a control input comes. The empty tape is the model's choice (log 4), and that a step
without a control input changes nothing its deduction (log 6). The start at 0 is the spec's decision D19 and the status
its D23. -/
def Obligations.ResetIsReadyAtZero : Prop :=
  State.reset.ip = 0 ∧ State.reset.status = .ready ∧ State.reset.fault = none ∧ State.reset.mem = [] ∧
    step State.reset = .next State.reset

/-! ### The whole machine -/

/-- Every step answers a next state, from every state whatever, except the `init` of an image with a non-word, which is
refused (R104, decision D24): no instruction and no fault of the CORE stops the model (R91 gives each fault its next
state, log 7). That an `init` in a run has no effect is the model's choice (log 5). That a step with nothing to do
answers the same state is its deduction (log 6). -/
def Obligations.EveryStepAnswersANextState : Prop :=
  ∀ s : State, (∃ s', step s = .next s') ∨
    (step s = .refused .imageWordOutOfRange ∧ s.status.inRun = false ∧
      ∃ image cs, s.control = .init image :: cs ∧ ∃ v ∈ image, ¬ IsWord s.cfg.wordBits v)

/-- R5, R29, R34, R92: no step changes the parameters, and what has been consumed and delivered stays so: each step
adds at most one line to either. That `init` keeps them is the model's choice (log 12), and that a failed Print adds no
line is so too (log 15). -/
def Obligations.ParametersStayAndStreamsOnlyGrow : Prop :=
  ∀ s s' : State, step s = .next s' →
    s'.cfg = s.cfg ∧ (∃ ls, s'.consumed = s.consumed ++ ls ∧ ls.length ≤ 1) ∧
      ∃ ls, s'.output = s.output ++ ls ∧ ls.length ≤ 1

/-- The invariant of Safety.lean (cells are words, R6 and R21; the latch's range, R18; the fault record valid exactly
in FAULTED with `fault_ip = ip`, R23 and R91; a waiting instruction stands at `ip` with its own operand, R16 and R25; a
Halt stands at `ip` in HALTED, R85) is kept by every step from every state that has it. Of its clauses, that `ip` keeps
the Halt word's address is the spec's decision D7 and the start at 0 its D19, that a jump loads any word D6, that a
fault leaves `ip` D10 (log 13), and the record and its place in FAULTED D11 and D23; the least width is the model's
deduction (log 2), the operand a wait keeps its choice (log 8), and that an `init` in a run has no effect its choice
too (log 5). -/
def Obligations.EveryStepKeepsTheInvariant : Prop :=
  ∀ s s' : State, s.Inv → step s = .next s' → s'.Inv

/-- The invariant holds right after reset. That it does rests on the model's own reset values: the empty tape (log 4),
so that every cell is a word, and the width 64 (log 1), which meets the least width (log 2); `ip` 0 is R103 with the
spec's decision D19. -/
def Obligations.ResetHasTheInvariant : Prop := State.reset.Inv
end

