-- ==== Sys2Proof/Laws/State.lean ====
section
/-! SUPPORT. One lemma per field and per named update of State, true by rfl, so that no later proof unfolds an
update. -/

namespace Sys2Proof.Machine

@[simp] theorem State.storeCell_cfg (s : State) (a : Int) (v : Int) : (s.storeCell a v).cfg = s.cfg := rfl
@[simp] theorem State.storeCell_ip (s : State) (a : Int) (v : Int) : (s.storeCell a v).ip = s.ip := rfl
@[simp] theorem State.storeCell_mem (s : State) (a : Int) (v : Int) : (s.storeCell a v).mem = setCell s.mem a v := rfl
@[simp] theorem State.storeCell_status (s : State) (a : Int) (v : Int) : (s.storeCell a v).status = s.status := rfl
@[simp] theorem State.storeCell_fault (s : State) (a : Int) (v : Int) : (s.storeCell a v).fault = s.fault := rfl
@[simp] theorem State.storeCell_input (s : State) (a : Int) (v : Int) : (s.storeCell a v).input = s.input := rfl
@[simp] theorem State.storeCell_consumed (s : State) (a : Int) (v : Int) : (s.storeCell a v).consumed = s.consumed := rfl
@[simp] theorem State.storeCell_sink (s : State) (a : Int) (v : Int) : (s.storeCell a v).sink = s.sink := rfl
@[simp] theorem State.storeCell_output (s : State) (a : Int) (v : Int) : (s.storeCell a v).output = s.output := rfl
@[simp] theorem State.storeCell_control (s : State) (a : Int) (v : Int) : (s.storeCell a v).control = s.control := rfl
@[simp] theorem State.storeCell_draws (s : State) (a : Int) (v : Int) : (s.storeCell a v).draws = s.draws := rfl

@[simp] theorem State.loadIp_cfg (s : State) (t : Int) : (s.loadIp t).cfg = s.cfg := rfl
@[simp] theorem State.loadIp_ip (s : State) (t : Int) : (s.loadIp t).ip = t := rfl
@[simp] theorem State.loadIp_mem (s : State) (t : Int) : (s.loadIp t).mem = s.mem := rfl
@[simp] theorem State.loadIp_status (s : State) (t : Int) : (s.loadIp t).status = s.status := rfl
@[simp] theorem State.loadIp_fault (s : State) (t : Int) : (s.loadIp t).fault = s.fault := rfl
@[simp] theorem State.loadIp_input (s : State) (t : Int) : (s.loadIp t).input = s.input := rfl
@[simp] theorem State.loadIp_consumed (s : State) (t : Int) : (s.loadIp t).consumed = s.consumed := rfl
@[simp] theorem State.loadIp_sink (s : State) (t : Int) : (s.loadIp t).sink = s.sink := rfl
@[simp] theorem State.loadIp_output (s : State) (t : Int) : (s.loadIp t).output = s.output := rfl
@[simp] theorem State.loadIp_control (s : State) (t : Int) : (s.loadIp t).control = s.control := rfl
@[simp] theorem State.loadIp_draws (s : State) (t : Int) : (s.loadIp t).draws = s.draws := rfl

@[simp] theorem State.setStatus_cfg (s : State) (st : Status) : (s.setStatus st).cfg = s.cfg := rfl
@[simp] theorem State.setStatus_ip (s : State) (st : Status) : (s.setStatus st).ip = s.ip := rfl
@[simp] theorem State.setStatus_mem (s : State) (st : Status) : (s.setStatus st).mem = s.mem := rfl
@[simp] theorem State.setStatus_status (s : State) (st : Status) : (s.setStatus st).status = st := rfl
@[simp] theorem State.setStatus_fault (s : State) (st : Status) : (s.setStatus st).fault = s.fault := rfl
@[simp] theorem State.setStatus_input (s : State) (st : Status) : (s.setStatus st).input = s.input := rfl
@[simp] theorem State.setStatus_consumed (s : State) (st : Status) : (s.setStatus st).consumed = s.consumed := rfl
@[simp] theorem State.setStatus_sink (s : State) (st : Status) : (s.setStatus st).sink = s.sink := rfl
@[simp] theorem State.setStatus_output (s : State) (st : Status) : (s.setStatus st).output = s.output := rfl
@[simp] theorem State.setStatus_control (s : State) (st : Status) : (s.setStatus st).control = s.control := rfl
@[simp] theorem State.setStatus_draws (s : State) (st : Status) : (s.setStatus st).draws = s.draws := rfl

@[simp] theorem State.setInput_cfg (s : State) (src : InputSource) : (s.setInput src).cfg = s.cfg := rfl
@[simp] theorem State.setInput_ip (s : State) (src : InputSource) : (s.setInput src).ip = s.ip := rfl
@[simp] theorem State.setInput_mem (s : State) (src : InputSource) : (s.setInput src).mem = s.mem := rfl
@[simp] theorem State.setInput_status (s : State) (src : InputSource) : (s.setInput src).status = s.status := rfl
@[simp] theorem State.setInput_fault (s : State) (src : InputSource) : (s.setInput src).fault = s.fault := rfl
@[simp] theorem State.setInput_input (s : State) (src : InputSource) : (s.setInput src).input = src := rfl
@[simp] theorem State.setInput_consumed (s : State) (src : InputSource) : (s.setInput src).consumed = s.consumed := rfl
@[simp] theorem State.setInput_sink (s : State) (src : InputSource) : (s.setInput src).sink = s.sink := rfl
@[simp] theorem State.setInput_output (s : State) (src : InputSource) : (s.setInput src).output = s.output := rfl
@[simp] theorem State.setInput_control (s : State) (src : InputSource) : (s.setInput src).control = s.control := rfl
@[simp] theorem State.setInput_draws (s : State) (src : InputSource) : (s.setInput src).draws = s.draws := rfl

@[simp] theorem State.consume_cfg (s : State) (l : Line) : (s.consume l).cfg = s.cfg := rfl
@[simp] theorem State.consume_ip (s : State) (l : Line) : (s.consume l).ip = s.ip := rfl
@[simp] theorem State.consume_mem (s : State) (l : Line) : (s.consume l).mem = s.mem := rfl
@[simp] theorem State.consume_status (s : State) (l : Line) : (s.consume l).status = s.status := rfl
@[simp] theorem State.consume_fault (s : State) (l : Line) : (s.consume l).fault = s.fault := rfl
@[simp] theorem State.consume_input (s : State) (l : Line) : (s.consume l).input = s.input := rfl
@[simp] theorem State.consume_consumed (s : State) (l : Line) : (s.consume l).consumed = s.consumed ++ [l] := rfl
@[simp] theorem State.consume_sink (s : State) (l : Line) : (s.consume l).sink = s.sink := rfl
@[simp] theorem State.consume_output (s : State) (l : Line) : (s.consume l).output = s.output := rfl
@[simp] theorem State.consume_control (s : State) (l : Line) : (s.consume l).control = s.control := rfl
@[simp] theorem State.consume_draws (s : State) (l : Line) : (s.consume l).draws = s.draws := rfl

@[simp] theorem State.setSink_cfg (s : State) (k : Sink) : (s.setSink k).cfg = s.cfg := rfl
@[simp] theorem State.setSink_ip (s : State) (k : Sink) : (s.setSink k).ip = s.ip := rfl
@[simp] theorem State.setSink_mem (s : State) (k : Sink) : (s.setSink k).mem = s.mem := rfl
@[simp] theorem State.setSink_status (s : State) (k : Sink) : (s.setSink k).status = s.status := rfl
@[simp] theorem State.setSink_fault (s : State) (k : Sink) : (s.setSink k).fault = s.fault := rfl
@[simp] theorem State.setSink_input (s : State) (k : Sink) : (s.setSink k).input = s.input := rfl
@[simp] theorem State.setSink_consumed (s : State) (k : Sink) : (s.setSink k).consumed = s.consumed := rfl
@[simp] theorem State.setSink_sink (s : State) (k : Sink) : (s.setSink k).sink = k := rfl
@[simp] theorem State.setSink_output (s : State) (k : Sink) : (s.setSink k).output = s.output := rfl
@[simp] theorem State.setSink_control (s : State) (k : Sink) : (s.setSink k).control = s.control := rfl
@[simp] theorem State.setSink_draws (s : State) (k : Sink) : (s.setSink k).draws = s.draws := rfl

@[simp] theorem State.deliver_cfg (s : State) (l : Line) : (s.deliver l).cfg = s.cfg := rfl
@[simp] theorem State.deliver_ip (s : State) (l : Line) : (s.deliver l).ip = s.ip := rfl
@[simp] theorem State.deliver_mem (s : State) (l : Line) : (s.deliver l).mem = s.mem := rfl
@[simp] theorem State.deliver_status (s : State) (l : Line) : (s.deliver l).status = s.status := rfl
@[simp] theorem State.deliver_fault (s : State) (l : Line) : (s.deliver l).fault = s.fault := rfl
@[simp] theorem State.deliver_input (s : State) (l : Line) : (s.deliver l).input = s.input := rfl
@[simp] theorem State.deliver_consumed (s : State) (l : Line) : (s.deliver l).consumed = s.consumed := rfl
@[simp] theorem State.deliver_sink (s : State) (l : Line) : (s.deliver l).sink = s.sink := rfl
@[simp] theorem State.deliver_output (s : State) (l : Line) : (s.deliver l).output = s.output ++ [l] := rfl
@[simp] theorem State.deliver_control (s : State) (l : Line) : (s.deliver l).control = s.control := rfl
@[simp] theorem State.deliver_draws (s : State) (l : Line) : (s.deliver l).draws = s.draws := rfl

@[simp] theorem State.countDraw_cfg (s : State) : (s.countDraw).cfg = s.cfg := rfl
@[simp] theorem State.countDraw_ip (s : State) : (s.countDraw).ip = s.ip := rfl
@[simp] theorem State.countDraw_mem (s : State) : (s.countDraw).mem = s.mem := rfl
@[simp] theorem State.countDraw_status (s : State) : (s.countDraw).status = s.status := rfl
@[simp] theorem State.countDraw_fault (s : State) : (s.countDraw).fault = s.fault := rfl
@[simp] theorem State.countDraw_input (s : State) : (s.countDraw).input = s.input := rfl
@[simp] theorem State.countDraw_consumed (s : State) : (s.countDraw).consumed = s.consumed := rfl
@[simp] theorem State.countDraw_sink (s : State) : (s.countDraw).sink = s.sink := rfl
@[simp] theorem State.countDraw_output (s : State) : (s.countDraw).output = s.output := rfl
@[simp] theorem State.countDraw_control (s : State) : (s.countDraw).control = s.control := rfl
@[simp] theorem State.countDraw_draws (s : State) : (s.countDraw).draws = s.draws + 1 := rfl

@[simp] theorem State.passControl_cfg (s : State) : s.passControl.cfg = s.cfg := rfl
@[simp] theorem State.passControl_ip (s : State) : s.passControl.ip = s.ip := rfl
@[simp] theorem State.passControl_mem (s : State) : s.passControl.mem = s.mem := rfl
@[simp] theorem State.passControl_status (s : State) : s.passControl.status = s.status := rfl
@[simp] theorem State.passControl_fault (s : State) : s.passControl.fault = s.fault := rfl
@[simp] theorem State.passControl_input (s : State) : s.passControl.input = s.input := rfl
@[simp] theorem State.passControl_consumed (s : State) : s.passControl.consumed = s.consumed := rfl
@[simp] theorem State.passControl_sink (s : State) : s.passControl.sink = s.sink := rfl
@[simp] theorem State.passControl_output (s : State) : s.passControl.output = s.output := rfl
@[simp] theorem State.passControl_control (s : State) : s.passControl.control = s.control.tail := rfl
@[simp] theorem State.passControl_draws (s : State) : s.passControl.draws = s.draws := rfl

@[simp] theorem raise_cfg (s : State) (c : FaultCause) : (raise c s).cfg = s.cfg := rfl
@[simp] theorem raise_ip (s : State) (c : FaultCause) : (raise c s).ip = s.ip := rfl
@[simp] theorem raise_mem (s : State) (c : FaultCause) : (raise c s).mem = s.mem := rfl
@[simp] theorem raise_status (s : State) (c : FaultCause) : (raise c s).status = .faulted := rfl
@[simp] theorem raise_fault (s : State) (c : FaultCause) : (raise c s).fault = some { cause := c, faultIp := s.ip } := rfl
@[simp] theorem raise_input (s : State) (c : FaultCause) : (raise c s).input = s.input := rfl
@[simp] theorem raise_consumed (s : State) (c : FaultCause) : (raise c s).consumed = s.consumed := rfl
@[simp] theorem raise_sink (s : State) (c : FaultCause) : (raise c s).sink = s.sink := rfl
@[simp] theorem raise_output (s : State) (c : FaultCause) : (raise c s).output = s.output := rfl
@[simp] theorem raise_control (s : State) (c : FaultCause) : (raise c s).control = s.control := rfl
@[simp] theorem raise_draws (s : State) (c : FaultCause) : (raise c s).draws = s.draws := rfl

end Sys2Proof.Machine
end

