-- ==== Sys2Proof/Laws/Memory.lean ====
section
/-! SUPPORT. The laws of the tape: what a read gives, that a write changes its own cell and no other, and that every
memory operation keeps the length and the word range of the cells. -/

namespace Sys2Proof.Machine

variable {m : Memory} {s s' : State} {a b : Int} {v w : Int} {W : Nat}

theorem valid_iff : m.valid a = true ↔ 0 ≤ a ∧ a < (m.length : Int) := by simp [Memory.valid]

theorem valid_toNat_lt (h : m.valid a = true) : a.toNat < m.length := by
  have := valid_iff.mp h
  omega

theorem cellAt_isSome_iff : (cellAt m a).isSome = true ↔ m.valid a = true := by
  rw [valid_iff]
  unfold cellAt
  split
  · rw [Option.isSome_iff_exists]
    simp only [List.getElem?_eq_some_iff]
    constructor
    · rintro ⟨_, h, _⟩
      omega
    · intro h
      exact ⟨_, by omega, rfl⟩
  · simp only [Option.isSome_none, Bool.false_eq_true, false_iff]
    omega

theorem cellAt_eq_none_iff : cellAt m a = none ↔ m.valid a = false := by
  rw [← Bool.not_eq_true, ← cellAt_isSome_iff]
  cases cellAt m a <;> simp

theorem valid_of_cellAt (h : cellAt m a = some v) : m.valid a = true := by
  rw [← cellAt_isSome_iff, h]
  rfl

theorem exists_cellAt (h : m.valid a = true) : ∃ v, cellAt m a = some v :=
  Option.isSome_iff_exists.mp (cellAt_isSome_iff.mpr h)

theorem cellAt_mem (h : cellAt m a = some v) : v ∈ m := by
  unfold cellAt at h
  split at h
  · exact List.mem_of_getElem? h
  · cases h

theorem cellAt_isWord (hm : m.wf W) (h : cellAt m a = some v) : IsWord W v := hm v (cellAt_mem h)

@[simp] theorem length_setCell : (setCell m a v).length = m.length := by
  unfold setCell
  split <;> simp

theorem setCell_valid : (setCell m a v).valid b = m.valid b := by simp [Memory.valid]

/-- A read after a write to the same cell gives the word written (R46). -/
theorem cellAt_setCell_same (h : m.valid a = true) : cellAt (setCell m a v) a = some v := by
  simp [cellAt, setCell, h, (valid_iff.mp h).1, valid_toNat_lt h]

/-- A write leaves every other cell alone (R36). -/
theorem cellAt_setCell_other (h : b ≠ a) : cellAt (setCell m a v) b = cellAt m b := by
  unfold setCell
  split
  · unfold cellAt
    split
    · have : a.toNat ≠ b.toNat := by
        rename_i ha hb
        have := (valid_iff.mp ha).1
        omega
      simp [List.getElem?_set_ne this]
    · rfl
  · rfl

/-- A write of a word keeps every cell a word (R6, R21). -/
theorem setCell_keeps_wf (hm : m.wf W) (hv : IsWord W v) : (setCell m a v).wf W := by
  intro x hx
  unfold setCell at hx
  split at hx
  · rcases List.mem_or_eq_of_mem_set hx with h | h
    · exact hm x h
    · exact h ▸ hv
  · exact hm x hx

/-- The tape right after reset keeps the form. -/
theorem reset_mem_wf (W : Nat) : State.reset.mem.wf W := by
  intro x hx
  cases hx

/-- `init` takes an image only in the form (R104). -/
theorem applyInit_mem_wf {image : List Int} (h : applyInit image s = .next s') : s'.mem.wf s'.cfg.wordBits := by
  unfold applyInit at h
  split at h
  · cases h
    assumption
  · cases h

/-- `MemRead` answers the cell's word, and OutOfBounds exactly where there is no such cell (R9, R37). -/
theorem memRead_eq (acc : Access) :
    memRead s acc a = match cellAt s.mem a with | some w => .ok w | none => .error (.outOfBounds a acc) := rfl

theorem memRead_ok_iff {acc : Access} : memRead s acc a = .ok w ↔ cellAt s.mem a = some w := by
  rw [memRead_eq]
  cases cellAt s.mem a <;> simp

theorem memRead_error_iff {acc : Access} {c : FaultCause} :
    memRead s acc a = .error c ↔ cellAt s.mem a = none ∧ c = .outOfBounds a acc := by
  rw [memRead_eq]
  cases cellAt s.mem a <;> simp [eq_comm]

/-- `MemWrite` answers the tape with one cell replaced, and OutOfBounds exactly where there is no such cell. -/
theorem memWrite_ok_iff : memWrite s a v = .ok s' ↔ s.mem.valid a = true ∧ s' = s.storeCell a v := by
  unfold memWrite
  cases s.mem.valid a <;> simp [eq_comm]

theorem memWrite_error_iff {c : FaultCause} :
    memWrite s a v = .error c ↔ s.mem.valid a = false ∧ c = .outOfBounds a .write := by
  unfold memWrite
  cases s.mem.valid a <;> simp [eq_comm]

theorem memWrite_of_valid (h : s.mem.valid a = true) : memWrite s a v = .ok (s.storeCell a v) := by simp [memWrite, h]

theorem memWrite_of_not_valid (h : s.mem.valid a = false) : memWrite s a v = .error (.outOfBounds a .write) :=
  by simp [memWrite, h]

theorem memWrite_keeps_wf (hm : s.mem.wf W) (hv : IsWord W v) (h : memWrite s a v = .ok s') : s'.mem.wf W := by
  obtain ⟨-, rfl⟩ := memWrite_ok_iff.mp h
  exact setCell_keeps_wf hm hv

/-- Raising a fault is the state `faultedBy` names (R91). -/
theorem raise_eq_faultedBy (c : FaultCause) (s : State) : raise c s = s.faultedBy c := rfl

end Sys2Proof.Machine
end

