-- ==== Sys2Proof/Laws/Operands.lean ====
section
/-! SUPPORT. What the parameter resolver answers, in the terms of Safety.lean. -/

namespace Sys2Proof.Machine

variable {s : State} {k : Slot} {m m1 m2 : Mode} {v a b : Int} {c : FaultCause}

theorem resolve_ok_iff : resolve s k m = .ok v ↔ operandAt s k m = some v := by
  unfold resolve rawParam operandAt
  rw [memRead_eq]
  cases h : cellAt s.mem (s.ip + k.number) with
  | none => simp
  | some raw => cases m <;> simp [memRead_ok_iff]

theorem resolve_error_iff :
    resolve s k m = .error c ↔ ∃ x, operandFaultAt s k m = some x ∧ c = .outOfBounds x .read := by
  unfold resolve rawParam operandFaultAt
  rw [memRead_eq]
  cases h : cellAt s.mem (s.ip + k.number) with
  | none => simp [eq_comm]
  | some raw =>
    cases m with
    | positional => cases h' : cellAt s.mem raw <;> simp [memRead_eq, h', eq_comm]
    | immediate => simp

/-- A read slot has an operand or an address whose access fails, never both. -/
theorem operandAt_none_iff : operandAt s k m = none ↔ ∃ x, operandFaultAt s k m = some x := by
  unfold operandAt operandFaultAt
  cases cellAt s.mem (s.ip + k.number) with
  | none => simp
  | some raw =>
    cases m with
    | positional => cases h' : cellAt s.mem raw <;> simp [h']
    | immediate => simp

theorem target_ok_iff : target s k = .ok v ↔ targetAt s k = some v := memRead_ok_iff

theorem target_error_iff :
    target s k = .error c ↔ targetAt s k = none ∧ c = .outOfBounds (s.ip + k.number) .read := memRead_error_iff

theorem resolveTwo_ok_iff :
    resolveTwo s m1 m2 = .ok (a, b) ↔ operandAt s .p1 m1 = some a ∧ operandAt s .p2 m2 = some b := by
  rw [← resolve_ok_iff, ← resolve_ok_iff]
  unfold resolveTwo
  cases resolve s .p1 m1 with
  | error c => simp
  | ok x => cases resolve s .p2 m2 <;> simp

/-- R65, R90: slot 1's fault first, then slot 2's. -/
theorem resolveTwo_error_iff :
    resolveTwo s m1 m2 = .error c ↔
      (∃ x, operandFaultAt s .p1 m1 = some x ∧ c = .outOfBounds x .read) ∨
      (∃ y, operandAt s .p1 m1 = some y) ∧ ∃ x, operandFaultAt s .p2 m2 = some x ∧ c = .outOfBounds x .read := by
  rw [← resolve_error_iff, ← resolve_error_iff]
  simp only [← resolve_ok_iff]
  unfold resolveTwo
  cases resolve s .p1 m1 with
  | error c => simp
  | ok x => cases resolve s .p2 m2 <;> simp

theorem operandAt_isWord {W : Nat} (hm : s.mem.wf W) (h : operandAt s k m = some v) : IsWord W v := by
  unfold operandAt at h
  cases hr : cellAt s.mem (s.ip + k.number) with
  | none => simp [hr] at h
  | some raw =>
    cases m with
    | positional =>
      rw [hr] at h
      exact cellAt_isWord hm h
    | immediate =>
      simp only [hr, Option.bind_some, Option.some.injEq] at h
      exact h ▸ cellAt_isWord hm hr

end Sys2Proof.Machine
end

