-- ==== Sys2Proof/Laws/Alu.lean ====
section
/-! SUPPORT. What the ALU answers: `fit` by its three cases (R72), and the comparisons' two words (R11). -/

namespace Sys2Proof.Machine

variable {c : Config} {x : Int}

theorem fit_of_isWord (h : IsWord c.wordBits x) : fit c x = .ok x := if_pos h

theorem fit_of_wrap (h : ¬ IsWord c.wordBits x) (hp : c.overflow = .wrap) : fit c x = .ok (wrapW c.wordBits x) := by
  unfold fit
  rw [if_neg h, hp]

theorem fit_of_fault (h : ¬ IsWord c.wordBits x) (hp : c.overflow = .fault) : fit c x = .error (.overflow x) := by
  unfold fit
  rw [if_neg h, hp]

/-- `fit` raises nothing but the Overflow of its argument, and that under the fault policy alone. -/
theorem fit_error_iff {e : FaultCause} :
    fit c x = .error e ↔ ¬ IsWord c.wordBits x ∧ c.overflow = .fault ∧ e = .overflow x := by
  by_cases h : IsWord c.wordBits x
  · rw [fit_of_isWord h]
    simp [h.1, h.2]
  · cases hp : c.overflow with
    | wrap =>
      rw [fit_of_wrap h hp]
      simp
    | fault =>
      rw [fit_of_fault h hp]
      exact ⟨fun he => ⟨h, rfl, by cases he; rfl⟩, fun he => by rw [he.2.2]⟩

theorem aluLt_eq (c : Config) (a b : Int) : aluLt c a b = .ok (if a < b then 1 else 0) := by
  simp [aluLt, ltWord, boolWord]

theorem aluEq_eq (c : Config) (a b : Int) : aluEq c a b = .ok (if a = b then 1 else 0) := by
  simp [aluEq, eqWord, boolWord]

/-- The results 0 and 1 are words at every admitted width (R6, R11). -/
theorem boolWord_isWord (hc : c.Ok) (b : Bool) : IsWord c.wordBits (boolWord b) := by
  have h2 : 2 ≤ halfRange c.wordBits := by
    unfold halfRange
    have h : 2 ≤ c.wordBits := hc
    have := Nat.pow_le_pow_right (n := 2) (by omega) (show 1 ≤ c.wordBits - 1 by omega)
    omega
  cases b
  · exact ⟨by simp only [boolWord]; omega, by simp only [boolWord]; omega⟩
  · exact ⟨by simp only [boolWord]; omega, by simp only [boolWord]; omega⟩

end Sys2Proof.Machine
end

