-- ==== Sys2Proof/Laws/PerInstr.lean ====
section
/-! SUPPORT. The family EncodingFields: the word `encode` gives an instruction has exactly the decimal fields of R53
and lies below 100000 (R55). -/

namespace Sys2Proof.Laws

/-- The encoded word's fields are the instruction's opcode and modes, and it has no digit above the fifth. -/
def EncodingFields.Statement (i : Instr) : Prop :=
  0 < encode i ∧ encode i < 100000 ∧ opcodeField (encode i) = i.opcode ∧
    ∀ k, modeDigit k (encode i) = (i.mode k).digit

theorem EncodingFields.add (m1 m2 m3 : Mode) : EncodingFields.Statement (.add m1 m2 m3) := by
  refine ⟨?_, ?_, ?_, fun k => ?_⟩ <;> cases m1 <;> cases m2 <;> cases m3 <;> first | decide | (cases k <;> decide)

theorem EncodingFields.mul (m1 m2 m3 : Mode) : EncodingFields.Statement (.mul m1 m2 m3) := by
  refine ⟨?_, ?_, ?_, fun k => ?_⟩ <;> cases m1 <;> cases m2 <;> cases m3 <;> first | decide | (cases k <;> decide)

theorem EncodingFields.read (m1 m2 m3 : Mode) : EncodingFields.Statement (.read m1 m2 m3) := by
  refine ⟨?_, ?_, ?_, fun k => ?_⟩ <;> cases m1 <;> cases m2 <;> cases m3 <;> first | decide | (cases k <;> decide)

theorem EncodingFields.print (m1 m2 m3 : Mode) : EncodingFields.Statement (.print m1 m2 m3) := by
  refine ⟨?_, ?_, ?_, fun k => ?_⟩ <;> cases m1 <;> cases m2 <;> cases m3 <;> first | decide | (cases k <;> decide)

theorem EncodingFields.jnz (m1 m2 m3 : Mode) : EncodingFields.Statement (.jnz m1 m2 m3) := by
  refine ⟨?_, ?_, ?_, fun k => ?_⟩ <;> cases m1 <;> cases m2 <;> cases m3 <;> first | decide | (cases k <;> decide)

theorem EncodingFields.jz (m1 m2 m3 : Mode) : EncodingFields.Statement (.jz m1 m2 m3) := by
  refine ⟨?_, ?_, ?_, fun k => ?_⟩ <;> cases m1 <;> cases m2 <;> cases m3 <;> first | decide | (cases k <;> decide)

theorem EncodingFields.lt (m1 m2 m3 : Mode) : EncodingFields.Statement (.lt m1 m2 m3) := by
  refine ⟨?_, ?_, ?_, fun k => ?_⟩ <;> cases m1 <;> cases m2 <;> cases m3 <;> first | decide | (cases k <;> decide)

theorem EncodingFields.eq (m1 m2 m3 : Mode) : EncodingFields.Statement (.eq m1 m2 m3) := by
  refine ⟨?_, ?_, ?_, fun k => ?_⟩ <;> cases m1 <;> cases m2 <;> cases m3 <;> first | decide | (cases k <;> decide)

theorem EncodingFields.halt (m1 m2 m3 : Mode) : EncodingFields.Statement (.halt m1 m2 m3) := by
  refine ⟨?_, ?_, ?_, fun k => ?_⟩ <;> cases m1 <;> cases m2 <;> cases m3 <;> first | decide | (cases k <;> decide)

end Sys2Proof.Laws
end

