-- ==== Sys2Proof/Laws/Decode.lean ====
section
/-! SUPPORT. The decoder's fields in Euclidean division, where omega reads them, and the mode check as one case
distinction. -/

namespace Sys2Proof

variable {w : Int}

theorem opcodeField_of_nonneg (h : 0 ≤ w) : opcodeField w = w % 100 := Int.tmod_eq_emod_of_nonneg h

theorem modeDigit_of_nonneg (h : 0 ≤ w) (k : Slot) : modeDigit k w = w / (10 ^ (k.number + 1) : Nat) % 10 := by
  unfold modeDigit digit
  rw [Int.tdiv_eq_ediv_of_nonneg h, Int.tmod_eq_emod_of_nonneg (Int.ediv_nonneg h (by positivity))]

theorem modeDigit_p1 (h : 0 ≤ w) : modeDigit .p1 w = w / 100 % 10 := by
  simpa [Slot.number] using modeDigit_of_nonneg h .p1

theorem modeDigit_p2 (h : 0 ≤ w) : modeDigit .p2 w = w / 1000 % 10 := by
  simpa [Slot.number] using modeDigit_of_nonneg h .p2

theorem modeDigit_p3 (h : 0 ≤ w) : modeDigit .p3 w = w / 10000 % 10 := by
  simpa [Slot.number] using modeDigit_of_nonneg h .p3

/-- One slot's mode check (R56), as a case distinction on its digit. -/
theorem decodeMode_eq (k : Slot) (w : Int) :
    decodeMode k w =
      if modeDigit k w = 0 then .ok .positional
      else if modeDigit k w = 1 then .ok .immediate
      else .error (.invalidMode k (modeDigit k w)) := by
  unfold decodeMode modeOfDigit
  split_ifs <;> rfl

/-- Slots number 1, 2 and 3. -/
theorem slot_number_cases (k : Slot) : k.number = 1 ∨ k.number = 2 ∨ k.number = 3 := by
  cases k <;> simp [Slot.number]

end Sys2Proof
end

