-- ==== Sys2Proof/Laws/Ports.lean ====
section
/-! SUPPORT. What one poll of a port answers, and everything a Read or Print can do with the answer. -/

namespace Sys2Proof.Machine

variable {s : State} {t v : Int} {l : Line}

@[simp] theorem InputSource.poll_notYet (es : List InputEvent) (r : InputRest) :
    InputSource.poll { events := .notYet :: es, rest := r } = (.notYet, { events := es, rest := r }) := rfl

@[simp] theorem InputSource.poll_line (l : Line) (es : List InputEvent) (r : InputRest) :
    InputSource.poll { events := .line l :: es, rest := r } = (.line l, { events := es, rest := r }) := rfl

@[simp] theorem InputSource.poll_endOfInput :
    InputSource.poll { events := [], rest := .endOfInput } = (.endOfInput, { events := [], rest := .endOfInput }) := rfl

@[simp] theorem InputSource.poll_silent :
    InputSource.poll { events := [], rest := .silent } = (.notYet, { events := [], rest := .silent }) := rfl

@[simp] theorem Sink.poll_cons (a : SinkAnswer) (as : List SinkAnswer) (r : SinkAnswer) :
    Sink.poll { answers := a :: as, rest := r } = (a, { answers := as, rest := r }) := rfl

@[simp] theorem Sink.poll_nil (r : SinkAnswer) :
    Sink.poll { answers := [], rest := r } = (r, { answers := [], rest := r }) := rfl

/-- A boolean or comparison result is one of the words 0 and 1 (R11). -/
theorem boolWord_cases (b : Bool) : boolWord b = 0 ∨ boolWord b = 1 := by cases b <;> simp [boolWord]

/-- A parsed line's value is a word (R76). -/
theorem parseWord_isWord {W : Nat} (h : parseWord W l = some v) : IsWord W v := by
  unfold parseWord at h
  split at h
  · split at h
    · cases h
      assumption
    · cases h
  · cases h

/-- Everything a Read can do once its line is consumed. -/
theorem finishRead_cases (t : Int) (l : Line) (s : State) :
    (parseWord s.cfg.wordBits l = none ∧ finishRead t l s = raise (.badInput .malformed) s) ∨
    (∃ v, parseWord s.cfg.wordBits l = some v ∧ s.mem.valid t = false ∧ finishRead t l s = raise (.outOfBounds t .write) s) ∨
    (∃ v, parseWord s.cfg.wordBits l = some v ∧ s.mem.valid t = true ∧
      finishRead t l s = ((s.storeCell t v).loadIp (s.ip + 2)).setStatus .running) := by
  unfold finishRead
  cases hp : parseWord s.cfg.wordBits l with
  | none => simp
  | some v => cases hv : s.mem.valid t <;> simp [memWrite_of_valid, memWrite_of_not_valid, hv]

/-- Everything one poll of a waiting Read can do. -/
theorem awaitInput_cases (t : Int) (s : State) :
    ∃ ans src, s.input.poll = (ans, src) ∧
    ((ans = .notYet ∧ awaitInput t s = (s.setInput src).setStatus (.waitIn t)) ∨
     (ans = .endOfInput ∧ awaitInput t s = raise (.badInput .endOfInput) (s.setInput src)) ∨
     (∃ l, ans = .line l ∧ awaitInput t s = finishRead t l ((s.setInput src).consume l))) := by
  unfold awaitInput
  rcases hp : s.input.poll with ⟨ans, src⟩
  refine ⟨ans, src, rfl, ?_⟩
  cases ans <;> simp

/-- Everything one poll of a waiting Print can do. -/
theorem awaitSink_cases (v : Int) (s : State) :
    ∃ ans k, s.sink.poll = (ans, k) ∧
    ((ans = .notYet ∧ awaitSink v s = (s.setSink k).setStatus (.waitOut v)) ∨
     (ans = .failed ∧ awaitSink v s = raise .outputFailed (s.setSink k)) ∨
     (ans = .accepted ∧
      awaitSink v s = (((s.setSink k).deliver (printLine v)).loadIp (s.ip + 2)).setStatus .running)) := by
  unfold awaitSink
  rcases hp : s.sink.poll with ⟨ans, k⟩
  refine ⟨ans, k, rfl, ?_⟩
  cases ans <;> simp

/-- A Read with an invalid target makes its request or faults at once, by the draw; a valid one makes its request. -/
theorem startRead_cases (t : Int) (s : State) :
    (s.mem.valid t = true ∧ startRead t s = awaitInput t s) ∨
    (s.mem.valid t = false ∧ startRead t s = awaitInput t s.countDraw) ∨
    (s.mem.valid t = false ∧ startRead t s = raise (.outOfBounds t .write) s.countDraw) := by
  unfold startRead
  cases s.mem.valid t
  · cases Config.inputConsumedOnWriteFault s.draws <;> simp
  · simp

end Sys2Proof.Machine
end

