-- ==== Sys2Proof/Laws/Exec.lean ====
section
/-! SUPPORT. Everything an instruction can do and everything a step can do, said once; later proofs cite these and
do not unfold the machine. -/

namespace Sys2Proof.Machine

variable {s s' : State} {m1 m2 : Mode} {f : Config → Int → Int → Except FaultCause Int} {c : FaultCause}

@[simp] theorem conclude_ok (s s' : State) : conclude s (.ok s') = .next s' := rfl

@[simp] theorem conclude_error (s : State) (c : FaultCause) : conclude s (.error c) = .next (raise c s) := rfl

/-- A three-operand instruction reaches its end exactly when its operands, target, result and store all exist. -/
theorem computeStore_ok_iff :
    computeStore f m1 m2 s = .ok s' ↔
      ∃ a b t r, operandAt s .p1 m1 = some a ∧ operandAt s .p2 m2 = some b ∧ targetAt s .p3 = some t ∧
        f s.cfg a b = .ok r ∧ s.mem.valid t = true ∧ s' = (s.storeCell t r).loadIp (s.ip + 4) := by
  unfold computeStore
  constructor
  · intro h
    split at h
    · cases h
    · rename_i a b hab
      obtain ⟨ha, hb⟩ := resolveTwo_ok_iff.mp hab
      split at h
      · cases h
      · rename_i t ht
        split at h
        · cases h
        · rename_i r hr
          split at h
          · cases h
          · rename_i s1 hs1
            obtain ⟨hv, rfl⟩ := memWrite_ok_iff.mp hs1
            cases h
            exact ⟨a, b, t, r, ha, hb, target_ok_iff.mp ht, hr, hv, rfl⟩
  · rintro ⟨a, b, t, r, ha, hb, ht, hr, hv, rfl⟩
    simp [resolveTwo_ok_iff.mpr ⟨ha, hb⟩, target_ok_iff.mpr ht, hr, memWrite_of_valid hv]

/-- The faults of a three-operand instruction, in the order of R90. -/
theorem computeStore_error_iff :
    computeStore f m1 m2 s = .error c ↔
      resolveTwo s m1 m2 = .error c ∨
      ∃ a b, resolveTwo s m1 m2 = .ok (a, b) ∧
        (target s .p3 = .error c ∨
         ∃ t, target s .p3 = .ok t ∧
          (f s.cfg a b = .error c ∨ ∃ r, f s.cfg a b = .ok r ∧ s.mem.valid t = false ∧ c = .outOfBounds t .write)) := by
  unfold computeStore
  cases h1 : resolveTwo s m1 m2 with
  | error c' => simp
  | ok ab =>
    obtain ⟨a, b⟩ := ab
    cases h2 : target s .p3 with
    | error c' => simp
    | ok t =>
      cases h3 : f s.cfg a b with
      | error c' => simp [h3]
      | ok r =>
        cases hv : s.mem.valid t
        · simpa [h3, memWrite_of_not_valid hv, hv] using eq_comm
        · simp [h3, memWrite_of_valid hv, hv]

theorem jumpWhen_ok_iff {test : Int → Bool} :
    jumpWhen test m1 m2 s = .ok s' ↔
      ∃ x t, operandAt s .p1 m1 = some x ∧ operandAt s .p2 m2 = some t ∧
        s' = s.loadIp (if test x then t else s.ip + 3) := by
  unfold jumpWhen
  constructor
  · intro h
    split at h
    · cases h
    · rename_i x t hxt
      cases h
      obtain ⟨hx, ht⟩ := resolveTwo_ok_iff.mp hxt
      exact ⟨x, t, hx, ht, rfl⟩
  · rintro ⟨x, t, hx, ht, rfl⟩
    simp [resolveTwo_ok_iff.mpr ⟨hx, ht⟩]

theorem jumpWhen_error_iff {test : Int → Bool} :
    jumpWhen test m1 m2 s = .error c ↔ resolveTwo s m1 m2 = .error c := by
  unfold jumpWhen
  cases h : resolveTwo s m1 m2 <;> simp

/-- What `conclude` leaves: the state reached or the fault taken. -/
theorem conclude_cases {r : Except FaultCause State} (h : conclude s r = .next s') :
    r = .ok s' ∨ ∃ c, r = .error c ∧ s' = raise c s := by
  cases r with
  | ok s1 =>
    cases h
    exact .inl rfl
  | error c =>
    cases h
    exact .inr ⟨c, rfl, rfl⟩

/-- Everything a three-operand instruction can do. -/
theorem computeStore_cases (h : conclude s (computeStore f m1 m2 s) = .next s') :
    (∃ c, computeStore f m1 m2 s = .error c ∧ s' = raise c s) ∨
    ∃ a b t r, operandAt s .p1 m1 = some a ∧ operandAt s .p2 m2 = some b ∧ targetAt s .p3 = some t ∧
      f s.cfg a b = .ok r ∧ s.mem.valid t = true ∧ s' = (s.storeCell t r).loadIp (s.ip + 4) := by
  rcases conclude_cases h with h | h
  · exact .inr (computeStore_ok_iff.mp h)
  · exact .inl h

/-- Everything a jump can do. -/
theorem jumpWhen_cases {test : Int → Bool} (h : conclude s (jumpWhen test m1 m2 s) = .next s') :
    (∃ c, resolveTwo s m1 m2 = .error c ∧ s' = raise c s) ∨
    ∃ x t, operandAt s .p1 m1 = some x ∧ operandAt s .p2 m2 = some t ∧
      s' = s.loadIp (if test x then t else s.ip + 3) := by
  rcases conclude_cases h with h | ⟨c, hc, rfl⟩
  · exact .inr (jumpWhen_ok_iff.mp h)
  · exact .inl ⟨c, jumpWhen_error_iff.mp hc, rfl⟩

/-- Everything a Read can do in the step that starts it. -/
theorem execRead_cases (h : execRead s = .next s') :
    (targetAt s .p1 = none ∧ s' = raise (.outOfBounds (s.ip + 1) .read) s) ∨
    ∃ t, targetAt s .p1 = some t ∧ s' = startRead t s := by
  unfold execRead at h
  cases ht : target s .p1 with
  | error c =>
    obtain ⟨hn, rfl⟩ := target_error_iff.mp ht
    rw [ht] at h
    cases h
    exact .inl ⟨hn, rfl⟩
  | ok t =>
    rw [ht] at h
    cases h
    exact .inr ⟨t, target_ok_iff.mp ht, rfl⟩

/-- Everything a Print can do in the step that starts it. -/
theorem execPrint_cases (h : execPrint m1 s = .next s') :
    (∃ x, operandFaultAt s .p1 m1 = some x ∧ s' = raise (.outOfBounds x .read) s) ∨
    ∃ v, operandAt s .p1 m1 = some v ∧ s' = awaitSink v s := by
  unfold execPrint at h
  cases hv : resolve s .p1 m1 with
  | error c =>
    obtain ⟨x, hx, rfl⟩ := resolve_error_iff.mp hv
    rw [hv] at h
    cases h
    exact .inl ⟨x, hx, rfl⟩
  | ok v =>
    rw [hv] at h
    cases h
    exact .inr ⟨v, resolve_ok_iff.mp hv, rfl⟩

/-- Every instruction answers a next state. -/
theorem exec_answers (i : Instr) (s : State) : ∃ s', exec i s = .next s' := by
  have hc : ∀ r, ∃ s', conclude s r = .next s' := by
    intro r
    cases r <;> simp
  cases i with
  | read m1 m2 m3 =>
    simp only [exec, execRead]
    cases target s .p1 <;> simp
  | print m1 m2 m3 =>
    simp only [exec, execPrint]
    cases resolve s .p1 m1 <;> simp
  | halt m1 m2 m3 => exact ⟨_, rfl⟩
  | _ => exact hc _

theorem fetchDecode_ok_iff {i : Instr} :
    fetchDecode s = .ok i ↔ ∃ w, cellAt s.mem s.ip = some w ∧ decode w = .ok i := by
  unfold fetchDecode fetch
  rw [memRead_eq]
  cases cellAt s.mem s.ip with
  | none => simp
  | some w => cases h : decode w <;> simp [h]

theorem fetchDecode_error_iff :
    fetchDecode s = .error c ↔
      (cellAt s.mem s.ip = none ∧ c = .outOfBounds s.ip .fetch) ∨
      ∃ w d, cellAt s.mem s.ip = some w ∧ decode w = .error d ∧ c = causeOfDecode d := by
  unfold fetchDecode fetch
  rw [memRead_eq]
  cases cellAt s.mem s.ip with
  | none => simp [eq_comm]
  | some w => cases h : decode w <;> simp [h, eq_comm]

theorem instrAt_eq_some_iff {i : Instr} : s.instrAt = some i ↔ fetchDecode s = .ok i := by
  rw [fetchDecode_ok_iff]
  unfold State.instrAt
  cases cellAt s.mem s.ip with
  | none => simp
  | some w => cases h : decode w <;> simp [h]

theorem applyInit_of_words {image : List Int} (h : ∀ v ∈ image, IsWord s.cfg.wordBits v) :
    applyInit image s = .next { s with mem := image, ip := 0, status := .ready, fault := none } := if_pos h

theorem applyInit_refused {image : List Int} (h : ¬ ∀ v ∈ image, IsWord s.cfg.wordBits v) :
    applyInit image s = .refused .imageWordOutOfRange := if_neg h

theorem asserted_cons {d : Control} {cs : List Control} (h : s.control = d :: cs) : s.asserted = d := by
  unfold State.asserted
  rw [h]
  rfl

theorem passControl_of_nil (h : s.control = []) : s.passControl = s := by
  cases s
  cases h
  rfl

theorem stepIdle_idle (h : s.asserted = .idle) : stepIdle s = .next s.passControl := by
  unfold stepIdle
  rw [h]

theorem stepIdle_nil (h : s.control = []) : stepIdle s = .next s := by
  have ha : s.asserted = .idle := by
    unfold State.asserted
    rw [h]
    rfl
  rw [stepIdle_idle ha, passControl_of_nil h]

theorem stepIdle_init_of_words {image : List Int} (ha : s.asserted = .init image)
    (h : ∀ v ∈ image, IsWord s.cfg.wordBits v) :
    stepIdle s = .next { s.passControl with mem := image, ip := 0, status := .ready, fault := none } := by
  unfold stepIdle
  rw [ha]
  exact applyInit_of_words (s := s.passControl) h

theorem stepIdle_init_refused {image : List Int} (ha : s.asserted = .init image)
    (h : ¬ ∀ v ∈ image, IsWord s.cfg.wordBits v) : stepIdle s = .refused .imageWordOutOfRange := by
  unfold stepIdle
  rw [ha]
  exact applyInit_refused (s := s.passControl) h

theorem stepIdle_run_of_ready (ha : s.asserted = .run) (h : s.status = .ready) :
    stepIdle s = .next { s.passControl with status := .running } := by
  unfold stepIdle applyRun
  rw [ha]
  simp only [State.passControl_status, h]
  rfl

theorem stepIdle_run_of_not_ready (ha : s.asserted = .run) (h : s.status ≠ .ready) :
    stepIdle s = .next s.passControl := by
  unfold stepIdle
  rw [ha]
  have : applyRun s.passControl = s.passControl := by
    unfold applyRun
    split
    · exact absurd ‹_› h
    · rfl
  exact congrArg Host.Outcome.next this

/-- Outside a run a step lets the control input act and does nothing else. -/
theorem step_of_not_inRun (h : s.status.inRun = false) : step s = stepIdle s := by
  unfold step
  cases hs : s.status <;> rw [hs] at h <;> first | rfl | cases h

theorem step_of_waitIn {t : Int} (h : s.status = .waitIn t) : step s = .next (awaitInput t s.passControl) := by
  unfold step
  rw [h]

theorem step_of_waitOut {v : Int} (h : s.status = .waitOut v) : step s = .next (awaitSink v s.passControl) := by
  unfold step
  rw [h]

/-- Everything one step outside a run can do. -/
theorem stepIdle_cases (h : stepIdle s = .next s') :
    (s.asserted = .idle ∧ s' = s.passControl) ∨
    (∃ image, s.asserted = .init image ∧ Memory.wf image s.cfg.wordBits ∧
      s' = { s.passControl with mem := image, ip := 0, status := .ready, fault := none }) ∨
    (s.asserted = .run ∧ s.status = .ready ∧ s' = { s.passControl with status := .running }) ∨
    (s.asserted = .run ∧ s.status ≠ .ready ∧ s' = s.passControl) := by
  rcases ha : s.asserted with _ | image | _
  · rw [stepIdle_idle ha] at h
    cases h
    exact .inl ⟨rfl, rfl⟩
  · by_cases hw : ∀ v ∈ image, IsWord s.cfg.wordBits v
    · rw [stepIdle_init_of_words ha hw] at h
      cases h
      exact .inr (.inl ⟨image, rfl, hw, rfl⟩)
    · rw [stepIdle_init_refused ha hw] at h
      cases h
  · by_cases hr : s.status = .ready
    · rw [stepIdle_run_of_ready ha hr] at h
      cases h
      exact .inr (.inr (.inl ⟨rfl, hr, rfl⟩))
    · rw [stepIdle_run_of_not_ready ha hr] at h
      cases h
      exact .inr (.inr (.inr ⟨rfl, hr, rfl⟩))

/-- Everything a step can do, by status. -/
theorem step_cases (h : step s = .next s') :
    (s.status = .running ∧ ∃ i, fetchDecode s = .ok i ∧ exec i s.passControl = .next s') ∨
    (s.status = .running ∧ ∃ c, fetchDecode s = .error c ∧ s' = raise c s.passControl) ∨
    (∃ t, s.status = .waitIn t ∧ s' = awaitInput t s.passControl) ∨
    (∃ v, s.status = .waitOut v ∧ s' = awaitSink v s.passControl) ∨
    (s.status.inRun = false ∧ stepIdle s = .next s') := by
  unfold step at h
  cases hs : s.status with
  | running =>
    rw [hs] at h
    cases hf : fetchDecode s with
    | ok i =>
      simp only [hf] at h
      exact .inl ⟨rfl, i, rfl, h⟩
    | error c =>
      simp only [hf] at h
      cases h
      exact .inr (.inl ⟨rfl, c, rfl, rfl⟩)
  | waitIn t =>
    rw [hs] at h
    cases h
    exact .inr (.inr (.inl ⟨t, rfl, rfl⟩))
  | waitOut v =>
    rw [hs] at h
    cases h
    exact .inr (.inr (.inr (.inl ⟨v, rfl, rfl⟩)))
  | ready =>
    rw [hs] at h
    exact .inr (.inr (.inr (.inr ⟨rfl, h⟩)))
  | halted =>
    rw [hs] at h
    exact .inr (.inr (.inr (.inr ⟨rfl, h⟩)))
  | faulted =>
    rw [hs] at h
    exact .inr (.inr (.inr (.inr ⟨rfl, h⟩)))

end Sys2Proof.Machine
end

