-- ==== Sys2Proof/Laws/Run.lean ====
section
/-! SUPPORT. Runs of several steps, peeled apart. -/

namespace Sys2Proof.Machine

theorem core_run_zero (s : State) : Sys2Proof.core.run 0 s = .next s := rfl

theorem core_run_succ {n : Nat} {s s' : State} (h : step s = .next s') :
    Sys2Proof.core.run (n + 1) s = Sys2Proof.core.run n s' := by
  have h' : Sys2Proof.core.step s = .next s' := h
  simp only [Host.Core.run, h']

theorem core_run_refused {n : Nat} {s : State} {r : Refusal} (h : step s = .refused r) :
    Sys2Proof.core.run (n + 1) s = .refused r := by
  have h' : Sys2Proof.core.step s = .refused r := h
  simp only [Host.Core.run, h']

theorem core_run_one (s : State) : Sys2Proof.core.run 1 s = step s := by
  rcases h : step s with s' | r | r
  · exact core_run_succ h
  · cases r
  · exact core_run_refused h

/-- A run of `m + n` steps is a run of `m` and then one of `n`. -/
theorem core_run_add {m n : Nat} {s s' : State} (h : Sys2Proof.core.run m s = .next s') :
    Sys2Proof.core.run (m + n) s = Sys2Proof.core.run n s' := by
  induction m generalizing s with
  | zero =>
    cases h
    rw [Nat.zero_add]
  | succ m ih =>
    rw [Nat.succ_add]
    rcases hs : step s with s1 | r | r
    · rw [core_run_succ hs] at h ⊢
      exact ih h
    · cases r
    · rw [core_run_refused hs] at h
      cases h

end Sys2Proof.Machine
end

