-- ==== Sys2Proof/Tests/Slice0.lean ====
section
/-! SUPPORT. The model's own tests and the witnesses of the statements' hypotheses. Expected results are those of
spec/95_test_vectors.md or worked by hand from the rules named; each test is about one step or one word. -/

namespace Sys2Proof.Tests

open Sys2Proof Sys2Proof.Machine

/-- The state a program starts in: reset with the image as memory, RUNNING (95_test_vectors.md, "Start"). -/
def prog (image : List Int) : State := { State.reset with mem := image, status := .running }

/-- The same with the lines given standing at the input port and EndOfInput after them. -/
def progIn (image : List Int) (lines : List Line) : State :=
  { prog image with input := { events := lines.map .line, rest := .endOfInput } }

/-- The state an outcome goes on with. -/
def after (o : Host.Outcome State Fault Refusal) : Option State :=
  match o with
  | .next s => some s
  | _ => none

/-- Memory, `ip` and status after one step. -/
def shown (s : State) : Option (List Int × Int × Status) := (after (step s)).map fun t => (t.mem, t.ip, t.status)

/-- Why one step faulted. -/
def why (s : State) : Option FaultCause := ((after (step s)).bind (·.fault)).map (·.cause)

/-! ### Well-formedness: a write slot is Positional -/

theorem test_wellFormed_refuses_immediate_add : (Instr.add .positional .positional .immediate).wellFormed = false := by decide
theorem test_wellFormed_refuses_immediate_read : (Instr.read .immediate .positional .positional).wellFormed = false := by decide
theorem test_wellFormed_refuses_immediate_mul_lt_eq :
    (Instr.mul .immediate .immediate .immediate).wellFormed = false ∧
    (Instr.lt .positional .immediate .immediate).wellFormed = false ∧
    (Instr.eq .positional .positional .immediate).wellFormed = false := by decide
theorem test_wellFormed_takes_immediate_elsewhere :
    (Instr.halt .immediate .immediate .immediate).wellFormed = true ∧
    (Instr.read .positional .immediate .immediate).wellFormed = true ∧
    (Instr.jnz .immediate .immediate .immediate).wellFormed = true := by decide

/-! ### Decoding: one word for each constructor, written out from `op + 100*m1 + 1000*m2 + 10000*m3` (R53, R55) -/

theorem test_decode_add : decode 101 = .ok (.add .immediate .positional .positional) := by decide
theorem test_decode_mul : decode 1002 = .ok (.mul .positional .immediate .positional) := by decide
theorem test_decode_read : decode 10003 = .ok (.read .positional .positional .immediate) := by decide
theorem test_decode_print : decode 104 = .ok (.print .immediate .positional .positional) := by decide
theorem test_decode_jnz : decode 1105 = .ok (.jnz .immediate .immediate .positional) := by decide
theorem test_decode_jz : decode 1006 = .ok (.jz .positional .immediate .positional) := by decide
theorem test_decode_lt : decode 107 = .ok (.lt .immediate .positional .positional) := by decide
theorem test_decode_eq : decode 1008 = .ok (.eq .positional .immediate .positional) := by decide
theorem test_decode_halt : decode 1199 = .ok (.halt .immediate .immediate .positional) := by decide
theorem test_decode_high_digits : decode 100001 = .ok (.add .positional .positional .positional) := by decide
theorem test_decode_faults :
    decode 103 = .error (.invalidWriteMode .p1) ∧ decode 10108 = .error (.invalidWriteMode .p3) ∧
    decode 2299 = .error (.invalidMode .p1 2) ∧ decode 30004 = .error (.invalidMode .p3 3) ∧
    decode 0 = .error (.invalidOpcode 0 0) ∧ decode 42 = .error (.invalidOpcode 42 42) ∧
    decode (-1) = .error (.invalidOpcode (-1) (-1)) ∧ decode (-99) = .error (.invalidOpcode (-99) (-99)) := by decide
theorem test_decodeTableWord : decodeTableWord 16 1101 = some (.add .immediate .immediate .positional) := by decide

/-! ### Each instruction, one step (95_test_vectors.md, sections 1 and 2) -/

theorem test_add_self : shown (prog [1, 0, 0, 0, 99]) = some ([2, 0, 0, 0, 99], 4, .running) := by decide
theorem test_add_wraps :
    shown (prog [1101, -9223372036854775808, -1, 0, 99]) =
      some ([9223372036854775807, -9223372036854775808, -1, 0, 99], 4, .running) := by decide
theorem test_add_overflow_faults :
    why { prog [1101, 9223372036854775807, 1, 0, 99] with cfg := { wordBits := 64, overflow := .fault } } =
      some (.overflow 9223372036854775808) := by decide
theorem test_mul_in_place : shown (prog [1002, 4, 3, 4, 33]) = some ([1002, 4, 3, 4, 99], 4, .running) := by decide
theorem test_mul_wraps_at_32_bits :
    shown { prog [1102, 46341, 46341, 0, 99] with cfg := { wordBits := 32, overflow := .wrap } } =
      some ([-2147479015, 46341, 46341, 0, 99], 4, .running) := by decide
theorem test_read_negative : shown (progIn [3, 0, 99] [['-', '7']]) = some ([-7, 0, 99], 2, .running) := by decide
theorem test_read_out_of_range :
    why (progIn [3, 0, 99] ["9223372036854775808".toList]) = some (.badInput .malformed) := by decide
theorem test_print_immediate : (after (step (prog [104, -5, 99]))).map (·.output) = some [['-', '5', '\n']] := by decide
theorem test_print_word_limit :
    (after (step (prog [104, -9223372036854775808, 99]))).map (·.output) =
      some ["-9223372036854775808\n".toList] := by decide
theorem test_jnz_negative_is_nonzero : shown (prog [1105, -3, 4, 0, 99]) = some ([1105, -3, 4, 0, 99], 4, .running) := by decide
theorem test_jnz_resolves_an_unused_target : why (prog [105, 0, 50, 99]) = some (.outOfBounds 50 .read) := by decide
theorem test_jz_taken : shown (prog [1106, 0, 4, 0, 99]) = some ([1106, 0, 4, 0, 99], 4, .running) := by decide
theorem test_jz_not_taken : shown (prog [1106, 5, 50, 99]) = some ([1106, 5, 50, 99], 3, .running) := by decide
theorem test_lt_signed :
    shown (prog [1107, -9223372036854775808, 9223372036854775807, 0, 99]) =
      some ([1, -9223372036854775808, 9223372036854775807, 0, 99], 4, .running) := by decide
theorem test_lt_equal : shown (prog [1107, 4, 4, 0, 99]) = some ([0, 4, 4, 0, 99], 4, .running) := by decide
theorem test_eq_cell_against_address : shown (prog [1008, 4, 4, 0, 99]) = some ([0, 4, 4, 0, 99], 4, .running) := by decide
theorem test_eq_cell_against_itself : shown (prog [8, 4, 4, 0, 99]) = some ([1, 4, 4, 0, 99], 4, .running) := by decide
theorem test_halt_at_the_last_cell : shown (prog [99]) = some ([99], 0, .halted) := by decide

/-! ### Faults, ports, control and the host's two functions -/

theorem test_fault_record :
    (after (step { prog [1, 42, 0, 0, 99] with ip := 1 })).bind (·.fault) =
      some { cause := .invalidOpcode 42 42, faultIp := 1 } := by decide
theorem test_parameter_past_the_tape : why (prog [1, 0, 0]) = some (.outOfBounds 3 .read) := by decide
theorem test_write_past_the_tape : why (prog [1101, 1, 1, 100, 99]) = some (.outOfBounds 100 .write) := by decide
theorem test_empty_tape : why (prog []) = some (.outOfBounds 0 .fetch) := by decide
theorem test_input_grammar :
    parseWord 64 ['+', '7'] = some 7 ∧ parseWord 64 ['0', '0', '7'] = some 7 ∧ parseWord 64 ['-', '0'] = some 0 ∧
    parseWord 64 [' ', '7'] = none ∧ parseWord 64 ['a', 'b', 'c'] = none ∧ parseWord 64 [] = none ∧
    parseWord 64 ['-'] = none ∧ parseWord 64 ['+', '-', '1'] = none ∧ parseWord 64 ['7', '\r'] = none := by decide
theorem test_read_waits_on_a_silent_source : shown (prog [3, 0, 99]) = some ([3, 0, 99], 0, .waitIn 0) := by decide
theorem test_init_and_run :
    (after (Sys2Proof.core.run 3 { State.reset with control := [.init [99], .run] })).map
      (fun t => (t.mem, t.ip, t.status)) = some ([99], 0, .halted) := by decide
theorem test_run_and_init_in_a_run_have_no_effect :
    (after (step { prog [1101, 1, 1, 0, 99] with control := [.init [7], .run] })).map
      (fun t => (t.mem, t.ip, t.status, t.control)) = some ([2, 1, 1, 0, 99], 4, .running, [.run]) ∧
    (after (step { prog [3, 0, 99] with status := .waitIn 0, control := [.run] })).map
      (fun t => (t.mem, t.ip, t.status, t.control)) = some ([3, 0, 99], 0, .waitIn 0, []) := by decide
theorem test_withFetchWord_places_all_words :
    (State.reset.withFetchWord 128 (1101 + 2 ^ 64 * 2 + 2 ^ 128 * (2 ^ 64 - 3))).mem = [1101, 2, -3, 0] := by decide
theorem test_withFetchWord_runs_first :
    shown (State.reset.withFetchWord 8 1) = some ([2, 0, 0, 0], 4, .running) := by decide

/-! ### Witnesses: states and operands that meet each statement's hypotheses, clause by clause -/

theorem witness_EncodeAndDecodeAreInverse :
    (Instr.add .immediate .immediate .positional).wellFormed = true ∧
    ((11199 : Int) < 100000 ∧ decode 11199 = .ok (.halt .immediate .immediate .immediate)) := by decide

theorem witness_DecodeIgnoresDigitsAboveTheFifth :
    ((0 : Int) ≤ 1 ∧ (0 : Int) ≤ 1 ∧ decode (1 + 100000 * 1) = .ok (.add .positional .positional .positional)) ∧
    ((0 : Int) ≤ 42 ∧ decode (42 + 100000 * 7) = .error (.invalidOpcode 42 700042)) ∧
    decode (20099 + 100000 * 3) = .error (.invalidMode .p3 2) ∧
    decode (11101 + 100000 * 3) = .error (.invalidWriteMode .p3) := by decide

theorem witness_WordWithoutAKnownOpcodeIsInvalidOpcode :
    (-1 : Int) < 0 ∧ ((1198 : Int) = 98 + 100 * 11 ∧ (0 : Int) ≤ 11 ∧ ((9 : Int) ≤ 98 ∧ (98 : Int) ≤ 98)) ∧
    ((0 : Int) = 0 + 100 * 0 ∧ (0 : Int) ≤ 0) := by decide

theorem witness_AllModeDigitsAreExaminedWhateverTheOpcode :
    ((2299 : Int) = 99 + 100 * 2 + 1000 * 2 + 10000 * 0 + 100000 * 0 ∧ (2 : Int) ≤ 2) ∧
    ((9104 : Int) = 4 + 100 * 1 + 1000 * 9 + 10000 * 0 + 100000 * 0 ∧ (1 : Int) ≤ 1 ∧ (2 : Int) ≤ 9) ∧
    ((31105 : Int) = 5 + 100 * 1 + 1000 * 1 + 10000 * 3 + 100000 * 0 ∧ (2 : Int) ≤ 3) ∧
    ((Instr.print .immediate .positional .immediate).opcode = (Instr.print .immediate .immediate .positional).opcode ∧
      ∀ k ∈ [Slot.p1, .p2, .p3], (Instr.print .immediate .positional .immediate).role k = .read →
        (Instr.print .immediate .positional .immediate).mode k =
          (Instr.print .immediate .immediate .positional).mode k) := by decide

theorem witness_WordsWithModeDigitsZeroAndOneDecodeByTheTable :
    (11101 : Int) = 1 + 100 * 1 + 1000 * 1 + 10000 * 1 + 100000 * 0 ∧
    (103 : Int) = 3 + 100 * 1 + 1000 * 0 + 10000 * 0 + 100000 * 0 ∧
    (10199 : Int) = 99 + 100 * 1 + 1000 * 0 + 10000 * 1 + 100000 * 0 := by decide

/-- Two words of opcode 1 with unlike modes; and an Add whose first operand both modes resolve to 1. -/
theorem witness_ModesChangeOnlyHowAReadSlotIsResolved :
    (decode 1101 = .ok (.add .immediate .immediate .positional) ∧
      decode 100001 = .ok (.add .positional .positional .positional) ∧ opcodeField 1101 = opcodeField 100001) ∧
    ((Instr.add .positional .immediate .positional).opcode = (Instr.add .immediate .immediate .positional).opcode ∧
      ∀ k ∈ [Slot.p1, .p2], (resolve (prog [1001, 1, 5, 0]) k ((Instr.add .positional .immediate .positional).mode k)).toOption =
        (resolve (prog [1001, 1, 5, 0]) k ((Instr.add .immediate .immediate .positional).mode k)).toOption ∧
        (resolve (prog [1001, 1, 5, 0]) k .immediate).toOption.isSome = true) := by decide

theorem witness_StepRunsTheDecodedInstruction :
    (prog [99]).status = .running ∧ cellAt (prog [99]).mem (prog [99]).ip = some 99 ∧
    decode 99 = .ok (.halt .positional .positional .positional) := by decide

theorem witness_FetchAndDecodeFaultsAreTaken :
    ((prog []).status = .running ∧ ((prog []).mem.length : Int) ≤ (prog []).ip) ∧ (-1 : Int) < 0 ∧
    (cellAt (prog [42]).mem 0 = some 42 ∧ decode 42 = .error (.invalidOpcode 42 42)) ∧
    (cellAt (prog [203]).mem 0 = some 203 ∧ decode 203 = .error (.invalidMode .p1 2)) ∧
    (cellAt (prog [103]).mem 0 = some 103 ∧ decode 103 = .error (.invalidWriteMode .p1)) := by decide

theorem witness_ModeDigitsSelectAddressOrValue :
    modeDigit .p2 104 = 0 ∧ modeDigit .p1 104 = 1 ∧ (2 ≤ modeDigit .p1 904 ∧ modeDigit .p1 904 ≤ 9) ∧
    (cellAt (prog [4, 1, 99]).mem ((prog [4, 1, 99]).ip + Slot.p1.number) = some 1 ∧
      cellAt (prog [4, 1, 99]).mem 1 = some 1) := by decide

theorem witness_SlotsFaultOutsideTheTape :
    cellAt (prog [4]).mem ((prog [4]).ip + Slot.p1.number) = none ∧
    (cellAt (prog [4, 2]).mem ((prog [4, 2]).ip + Slot.p1.number) = some 2 ∧ cellAt (prog [4, 2]).mem 2 = none) := by decide

theorem witness_MemoryReadsAndWritesOneCell :
    ((0 : Int) ≤ 1 ∧ (1 : Int) < ((prog [4, 2]).mem.length : Int)) ∧ (-1 : Int) < 0 ∧
    ((prog [4, 2]).mem.length : Int) ≤ 2 := by decide

theorem witness_WrapGivesTheOneCongruentWord :
    1 ≤ 1 ∧ IsWord 8 (wrapW 8 128) ∧ (2 ^ 8 : Int) ∣ -128 - 128 ∧ IsWord 8 (-128) := by decide

/-- A sum that fits, and the largest word plus one under either policy. -/
theorem witness_AddStoresTheSum :
    (operandAt (prog [1101, 2, 3, 4, 99]) .p1 .immediate = some 2 ∧
      operandAt (prog [1101, 2, 3, 4, 99]) .p2 .immediate = some 3 ∧ targetAt (prog [1101, 2, 3, 4, 99]) .p3 = some 4 ∧
      IsWord 64 (2 + 3) ∧ (prog [1101, 2, 3, 4, 99]).mem.valid 4 = true) ∧
    (operandAt (prog [1001, 4, 1, 0, 9223372036854775807]) .p1 .positional = some 9223372036854775807 ∧
      ¬ IsWord 64 (9223372036854775807 + 1) ∧ State.reset.cfg.overflow = .wrap ∧
      (prog [1001, 4, 1, 0, 9223372036854775807]).mem.valid 0 = true ∧ State.reset.cfg.Ok) ∧
    (¬ IsWord 64 (9223372036854775807 + 1) ∧
      ({ prog [] with cfg := { wordBits := 64, overflow := .fault } } : State).cfg.overflow = .fault) := by decide

theorem witness_MulStoresTheProduct :
    (operandAt (prog [1102, 6, 7, 0, 99]) .p1 .immediate = some 6 ∧
      operandAt (prog [1102, 6, 7, 0, 99]) .p2 .immediate = some 7 ∧ targetAt (prog [1102, 6, 7, 0, 99]) .p3 = some 0 ∧
      IsWord 64 (6 * 7) ∧ (prog [1102, 6, 7, 0, 99]).mem.valid 0 = true) ∧
    (operandAt (prog [1102, -1, -9223372036854775808, 0]) .p2 .immediate = some (-9223372036854775808) ∧
      ¬ IsWord 64 (-1 * -9223372036854775808)) := by decide

theorem witness_LtStoresTheSignedComparison :
    (operandAt (prog [1107, -1, 0, 4, 99]) .p1 .immediate = some (-1) ∧
      operandAt (prog [1107, -1, 0, 4, 99]) .p2 .immediate = some 0 ∧ targetAt (prog [1107, -1, 0, 4, 99]) .p3 = some 4 ∧
      (prog [1107, -1, 0, 4, 99]).mem.valid 4 = true ∧ (-1 : Int) < 0) ∧
    (operandAt (prog [1107, 4, 4, 0]) .p1 .immediate = some 4 ∧ operandAt (prog [1107, 4, 4, 0]) .p2 .immediate = some 4 ∧
      targetAt (prog [1107, 4, 4, 0]) .p3 = some 0 ∧ (4 : Int) ≤ 4) := by decide

theorem witness_EqStoresTheEquality :
    (operandAt (prog [8, 4, 4, 0, 99]) .p1 .positional = some 99 ∧ operandAt (prog [8, 4, 4, 0, 99]) .p2 .positional = some 99 ∧
      targetAt (prog [8, 4, 4, 0, 99]) .p3 = some 0 ∧ (prog [8, 4, 4, 0, 99]).mem.valid 0 = true) ∧
    (operandAt (prog [1008, 4, 4, 0, 99]) .p2 .immediate = some 4 ∧ (99 : Int) ≠ 4) := by decide

/-- Each fault of a three-operand instruction, at the end of the tape; a negative target last. -/
theorem witness_ThreeOperandFaultsComeInSlotOrder :
    operandFaultAt (prog [1]) .p1 .positional = some 1 ∧
    (operandAt (prog [1, 0]) .p1 .positional = some 1 ∧ operandFaultAt (prog [1, 0]) .p2 .positional = some 2) ∧
    (operandAt (prog [1, 0, 3]) .p1 .positional = some 1 ∧ operandFaultAt (prog [1, 0, 3]) .p2 .positional = some 3) ∧
    (operandAt (prog [1, 0, 0]) .p2 .positional = some 1 ∧ targetAt (prog [1, 0, 0]) .p3 = none) ∧
    (targetAt (prog [1, 0, 0, 4]) .p3 = some 4 ∧ (prog [1, 0, 0, 4]).mem.valid 4 = false ∧ IsWord 64 (1 + 1)) ∧
    (targetAt (prog [1, 0, 0, -1]) .p3 = some (-1) ∧ (prog [1, 0, 0, -1]).mem.valid (-1) = false) := by decide

theorem witness_ThreeOperandInstructionsChangeOnlyTheirTarget :
    (after (exec (.lt .immediate .immediate .positional) (prog [1107, 1, 2, 0]))).isSome = true ∧
    (after (exec (.add .positional .positional .positional) (prog [1]))).isSome = true := by decide

theorem witness_JnzLoadsItsTargetWhenNonzero :
    (operandAt (prog [1105, -3, 4]) .p1 .immediate = some (-3) ∧ operandAt (prog [1105, -3, 4]) .p2 .immediate = some 4 ∧
      (-3 : Int) ≠ 0) ∧
    (operandAt (prog [1105, 0, 50]) .p1 .immediate = some 0 ∧ operandAt (prog [1105, 0, 50]) .p2 .immediate = some 50) := by decide

theorem witness_JzLoadsItsTargetWhenZero :
    (operandAt (prog [1106, 0, -1]) .p1 .immediate = some 0 ∧ operandAt (prog [1106, 0, -1]) .p2 .immediate = some (-1)) ∧
    (operandAt (prog [1106, 5, 50]) .p1 .immediate = some 5 ∧ (5 : Int) ≠ 0) := by decide

theorem witness_JumpsResolveBothSlotsBeforeBranching :
    operandFaultAt (prog [1005, 3, 0]) .p1 .positional = some 3 ∧
    (operandAt (prog [105, 0, 50, 99]) .p1 .immediate = some 0 ∧
      operandFaultAt (prog [105, 0, 50, 99]) .p2 .positional = some 50) := by decide

theorem witness_JumpsChangeOnlyTheInstructionPointer :
    (after (exec (.jz .immediate .immediate .positional) (prog [1106, 0, 4]))).isSome = true := by decide

theorem witness_JumpOutsideTheTapeFaultsAtTheNextFetch :
    (prog [1105, 1, -1]).status = .running ∧
    (prog [1105, 1, -1]).instrAt = some (.jnz .immediate .immediate .positional) ∧
    operandAt (prog [1105, 1, -1]) .p1 .immediate = some 1 ∧ (1 : Int) ≠ 0 ∧
    operandAt (prog [1105, 1, -1]) .p2 .immediate = some (-1) ∧ (prog [1105, 1, -1]).mem.valid (-1) = false := by decide

/-- A Read that is started, and one that waits, with a line holding the largest word at the port. -/
theorem witness_ReadStoresTheWordOnTheLine :
    ((prog [3, 2, 0]).mem.valid 2 = true ∧
      (progIn [3, 2, 0] ["9223372036854775807".toList]).input.events = .line "9223372036854775807".toList :: [] ∧
      parseWord 64 "9223372036854775807".toList = some 9223372036854775807 ∧ targetAt (prog [3, 2, 0]) .p1 = some 2) ∧
    ({ progIn [3, 2, 0] [['4', '2']] with status := .waitIn 2 } : State).status = .waitIn 2 := by decide

theorem witness_ReadFaultsWithoutStoring :
    targetAt (prog [3]) .p1 = none ∧
    (targetAt (progIn [3, 0, 99] []) .p1 = some 0 ∧ (progIn [3, 0, 99] []).mem.valid 0 = true ∧
      (progIn [3, 0, 99] []).input.events = [] ∧ (progIn [3, 0, 99] []).input.rest = .endOfInput) ∧
    ((progIn [3, 0, 99] [[]]).input.events = .line [] :: [] ∧ parseWord 64 [] = none) := by decide

theorem witness_WaitingReadFaultsOnItsAnswer :
    ({ progIn [3, 5, 99] [] with status := .waitIn 5 } : State).status = .waitIn 5 ∧
    ((progIn [3, 5, 99] []).input.events = [] ∧ (progIn [3, 5, 99] []).input.rest = .endOfInput) ∧
    ((progIn [3, 5, 99] [['x']]).input.events = .line ['x'] :: [] ∧ parseWord 64 ['x'] = none) ∧
    ((progIn [3, 5, 99] [['1']]).input.events = .line ['1'] :: [] ∧ parseWord 64 ['1'] = some 1 ∧
      (prog [3, 5, 99]).mem.valid 5 = false) := by decide

theorem witness_ReadWithAnInvalidTargetFaultsEitherWay :
    (targetAt (prog [3, 5, 99]) .p1 = some 5 ∧ (prog [3, 5, 99]).mem.valid 5 = false) ∧
    ((progIn [3, 5, 99] []).input.events = [] ∧ (progIn [3, 5, 99] []).input.rest = .endOfInput) ∧
    ((prog [3, 5, 99]).input.events = [] ∧ (prog [3, 5, 99]).input.rest = .silent) ∧
    ((progIn [3, 5, 99] [['1']]).input.events = .line ['1'] :: [] ∧ parseWord 64 ['1'] = some 1) ∧
    ((progIn [3, 5, 99] [['x']]).input.events = .line ['x'] :: [] ∧ parseWord 64 ['x'] = none) ∧
    ({ prog [3, 5, 99] with input := { events := [.notYet], rest := .silent } } : State).input.events = .notYet :: [] := by decide

theorem witness_ReadAndPrintChangeOnlyTheirOwn :
    (after (exec (.read .positional .positional .positional) (progIn [3, 0, 99] [['7']]))).isSome = true ∧
    (after (exec (.print .immediate .positional .positional) (prog [104, 7, 99]))).isSome = true := by decide

theorem witness_PrintDeliversItsLine :
    ((prog [104, -5, 99]).sink.answers = [] ∧ (prog [104, -5, 99]).sink.rest = .accepted ∧
      operandAt (prog [104, -5, 99]) .p1 .immediate = some (-5)) ∧
    ({ prog [4, 0] with sink := { answers := [.accepted], rest := .failed }, status := .waitOut 4 } : State).sink.answers =
      .accepted :: [] := by decide

theorem witness_PrintFaultsWithoutALine :
    operandFaultAt (prog [4, 7, 99]) .p1 .positional = some 7 ∧
    (({ prog [104, 1] with sink := { answers := [.failed], rest := .accepted } } : State).sink.answers = .failed :: [] ∧
      operandAt (prog [104, 1]) .p1 .immediate = some 1) ∧
    ({ prog [104, 1] with sink := { answers := [], rest := .failed }, status := .waitOut 1 } : State).sink.rest = .failed := by decide

theorem witness_AnUnansweredPortMakesItsInstructionWait :
    (targetAt (prog [3, 0, 99]) .p1 = some 0 ∧ (prog [3, 0, 99]).mem.valid 0 = true ∧
      (prog [3, 0, 99]).input.events = [] ∧ (prog [3, 0, 99]).input.rest = .silent) ∧
    ({ prog [3, 0, 99] with input := { events := [.notYet], rest := .endOfInput } } : State).input.events = .notYet :: [] ∧
    (operandAt (prog [104, 0]) .p1 .immediate = some 0 ∧
      ({ prog [104, 0] with sink := { answers := [.notYet], rest := .accepted } } : State).sink.answers = .notYet :: []) ∧
    ({ prog [104, 0] with sink := { answers := [], rest := .notYet } } : State).sink.rest = .notYet := by decide

theorem witness_OnlyReadAndPrintTouchThePortsOrWait :
    ((after (exec (.halt .positional .positional .positional) (prog [99]))).isSome = true ∧
      (Instr.halt .positional .positional .positional).opcode ≠ 3 ∧
      (Instr.halt .positional .positional .positional).opcode ≠ 4) ∧
    ({ prog [3, 0] with status := .waitIn 0, input := { events := [.notYet], rest := .silent } } : State).input.events =
      .notYet :: [] ∧
    ({ prog [4, 0] with status := .waitOut 4, sink := { answers := [.notYet], rest := .accepted } } : State).sink.answers =
      .notYet :: [] ∧
    ((prog [3, 0]).input.events = [] ∧ (prog [3, 0]).input.rest = .silent) ∧
    ({ prog [4, 0] with sink := { answers := [], rest := .notYet } } : State).sink.rest = .notYet := by decide

theorem witness_AnInputRequestWaitsUntilItIsAnswered :
    ({ prog [3, 0] with status := .waitIn 0 } : State).status = .waitIn 0 ∧
    (prog [3, 0]).input.events = List.replicate 0 .notYet ++ [] ∧ (prog [3, 0]).input.rest = .silent ∧
    ({ prog [3, 0] with input := { events := [.notYet, .notYet, .line ['1']], rest := .silent } } : State).input.events =
      List.replicate 2 .notYet ++ [.line ['1']] := by decide

theorem witness_AnOutputOfferWaitsUntilItIsAnswered :
    ({ prog [4, 0] with status := .waitOut 4, sink := { answers := [], rest := .notYet } } : State).status = .waitOut 4 ∧
    ({ prog [4, 0] with sink := { answers := [], rest := .notYet } } : State).sink.rest = .notYet ∧
    ({ prog [4, 0] with sink := { answers := [.notYet, .accepted], rest := .notYet } } : State).sink.answers =
      List.replicate 1 .notYet ++ [.accepted] := by decide

theorem witness_LateAnswersChangeNothingButTime :
    ((prog [3, 0]).status = .running ∧ (prog [3, 0]).instrAt = some (.read .positional .positional .positional) ∧
      targetAt (prog [3, 0]) .p1 = some 0 ∧ (prog [3, 0]).mem.valid 0 = true ∧
      ({ prog [3, 0] with input := { events := [.notYet, .line ['1']], rest := .silent } } : State).input.events =
        List.replicate 1 .notYet ++ [.line ['1']]) ∧
    ((progIn [3, 0] []).input.events = List.replicate 0 .notYet ++ [] ∧ (progIn [3, 0] []).input.rest = .endOfInput) ∧
    ((prog [4, 0]).instrAt = some (.print .positional .positional .positional) ∧
      operandAt (prog [4, 0]) .p1 .positional = some 4 ∧
      ({ prog [4, 0] with sink := { answers := [.notYet, .failed], rest := .notYet } } : State).sink.answers =
        List.replicate 1 .notYet ++ [.failed]) ∧
    ((prog [4, 0]).sink.answers = [] ∧ (prog [4, 0]).sink.rest ≠ .notYet) := by decide

theorem witness_WhatPrintWritesReadReadsBack : IsWord 64 (-9223372036854775808) ∧ IsWord 2 1 := by decide

theorem witness_FaultsArePrecise :
    (prog [42]).status.inRun = true ∧ (after (step (prog [42]))).map (·.status) = some .faulted := by decide

theorem witness_FaultsTouchPortsOnlyAsListed :
    ((prog [42]).status.inRun = true ∧ (after (step (prog [42]))).map (·.status) = some .faulted ∧
      (after (step (prog [42]))).bind (·.fault) = some { cause := .invalidOpcode 42 42, faultIp := 0 }) ∧
    why (prog [1101, 1, 1, 100, 99]) = some (.outOfBounds 100 .write) ∧
    why { progIn [3, 5, 99] [['1']] with status := .waitIn 5 } = some (.outOfBounds 5 .write) ∧
    why (progIn [3, 0, 99] []) = some (.badInput .endOfInput) ∧
    why { prog [104, 1, 99] with sink := { answers := [], rest := .failed } } = some .outputFailed := by decide

theorem witness_EachInstructionRaisesOnlyItsOwnFaults :
    (prog [4, 7, 99]).status = .running ∧
    (after (exec (.print .positional .positional .positional) (prog [4, 7, 99]))).map (·.status) = some .faulted := by decide

theorem witness_EachInstructionLoadsTheNextIpOfTheTable :
    ((prog [104, 1, 99]).status = .running ∧
      (after (exec (.print .immediate .positional .positional) (prog [104, 1, 99]))).map (·.status) = some .running) ∧
    (after (exec (.halt .positional .positional .positional) (prog [99]))).map (·.status) = some .halted := by decide

/-- The Add stores 99, and the Read takes 99, into the word fetched next. -/
theorem witness_AStoredOpcodeWordIsExecutedNext :
    ((prog [1101, 90, 9, 4, 0]).status = .running ∧
      (prog [1101, 90, 9, 4, 0]).instrAt = some (.add .immediate .immediate .positional) ∧
      operandAt (prog [1101, 90, 9, 4, 0]) .p1 .immediate = some 90 ∧
      operandAt (prog [1101, 90, 9, 4, 0]) .p2 .immediate = some 9 ∧ targetAt (prog [1101, 90, 9, 4, 0]) .p3 = some 4 ∧
      (4 : Int) = (prog [1101, 90, 9, 4, 0]).ip + 4 ∧ (prog [1101, 90, 9, 4, 0]).mem.valid 4 = true ∧
      IsWord 64 (90 + 9) ∧ decode (90 + 9) = .ok (.halt .positional .positional .positional)) ∧
    ((progIn [3, 2, 0] [['9', '9']]).instrAt = some (.read .positional .positional .positional) ∧
      targetAt (progIn [3, 2, 0] [['9', '9']]) .p1 = some 2 ∧ (2 : Int) = (prog [3, 2, 0]).ip + 2 ∧
      (prog [3, 2, 0]).mem.valid 2 = true ∧ (progIn [3, 2, 0] [['9', '9']]).input.events = .line ['9', '9'] :: [] ∧
      parseWord 64 ['9', '9'] = some 99) := by decide

theorem witness_MemoryIsNeverResizedInARun :
    ((prog [99]).status.inRun = true ∧ (after (step (prog [99]))).isSome = true) ∧
    ((prog [99]).mem.length : Int) ≤ 1 := by decide

theorem witness_OnlyInitLeavesFaulted :
    (({ State.reset with status := .faulted, control := [.run, .idle] } : State).status = .faulted ∧
      ∀ image, Control.init image ∉ ({ State.reset with status := .faulted, control := [.run, .idle] } : State).control) ∧
    (({ State.reset with status := .faulted, control := [.init [9223372036854775807]] } : State).control =
        .init [9223372036854775807] :: [] ∧
      ∀ v ∈ [(9223372036854775807 : Int)], IsWord 64 v) :=
  ⟨⟨rfl, fun image => by simp⟩, by decide⟩

theorem witness_HaltedStaysUntilInit :
    ({ State.reset with status := .halted, control := [.run] } : State).status = .halted ∧
    ∀ image, Control.init image ∉ ({ State.reset with status := .halted, control := [.run] } : State).control :=
  ⟨rfl, fun image => by simp⟩

theorem witness_InitAndRunStartTheImage :
    (State.reset.status.inRun = false ∧
      ({ State.reset with control := [.init [99], .run] } : State).control = .init [99] :: .run :: [] ∧
      ∀ v ∈ [(99 : Int)], IsWord 64 v) ∧
    ({ State.reset with control := [.init [], .run] } : State).control = .init [] :: .run :: [] ∧
    (¬ IsWord 64 9223372036854775808 ∧ (9223372036854775808 : Int) ∈ [(9223372036854775808 : Int)] ∧
      ({ State.reset with control := [.init [9223372036854775808]] } : State).control =
        .init [9223372036854775808] :: []) := by decide

theorem witness_RunStartsARunOnlyInReady :
    (State.reset.status = .ready ∧ ({ State.reset with control := [.run] } : State).control = .run :: []) ∧
    ({ State.reset with status := .halted, control := [.run] } : State).status.ended = true ∧
    (({ prog [99] with control := [.run] } : State).status.inRun = true ∧
      ({ prog [3, 0] with status := .waitIn 0, control := [.run] } : State).status.inRun = true) ∧
    ({ State.reset with control := [.idle, .run] } : State).control = .idle :: [.run] ∧
    State.reset.control = [] := by decide

theorem witness_ControlInputsHaveNoEffectInARun :
    (prog [99]).status.inRun = true ∧ (after (step (prog [99]))).isSome = true ∧
    (({ prog [3, 0] with status := .waitIn 0 } : State).status.inRun = true ∧
      (after (step ({ prog [3, 0] with status := .waitIn 0 } : State))).isSome = true) := by decide

theorem witness_ParametersStayAndStreamsOnlyGrow : (after (step (prog [104, 1, 99]))).isSome = true := by decide

/-- RUNNING with an instruction to run meets the invariant, as does a Read that waits. -/
theorem witness_EveryStepKeepsTheInvariant :
    (prog [104, 1, 99]).Inv ∧ (after (step (prog [104, 1, 99]))).isSome = true ∧
    ({ prog [3, 0, 99] with status := .waitIn 0 } : State).Inv := by
  refine ⟨⟨by decide, by decide, by decide, by decide, ?_, ?_, ?_, ?_, ?_⟩, by decide,
    ⟨by decide, by decide, by decide, by decide, ?_, ?_, ?_, ?_, ?_⟩⟩
  · intro r h
    cases h
  · intro h
    cases h
  · intro t h
    cases h
  · intro v h
    cases h
  · intro h
    cases h
  · intro r h
    cases h
  · intro h
    cases h
  · intro t h
    cases h
    exact ⟨⟨.positional, .positional, .positional, by decide⟩, by decide⟩
  · intro v h
    cases h
  · intro h
    cases h

end Sys2Proof.Tests
end

section
/-! ### The arithmetic modulo `2^W` (R6, R72)

`wrapW W v` is characterised once, as the only word congruent to `v`; that every ALU result is a word follows. -/

namespace Sys2Proof

/-- The word range is half of `2^W` to either side of zero (R6). -/
theorem two_pow_eq_two_mul_halfRange {W : Nat} (hW : 1 ≤ W) : ((2 ^ W : Nat) : Int) = 2 * halfRange W := by
  obtain ⟨n, rfl⟩ := Nat.exists_eq_add_of_le' hW
  simp [halfRange, pow_succ, mul_comm]

/-- Two's complement wrap-around as a specification: the one word congruent to the argument (R6, D3). -/
theorem wrapW_eq_iff {W : Nat} (hW : 1 ≤ W) {v r : Int} :
    wrapW W v = r ↔ IsWord W r ∧ (2 ^ W : Int) ∣ r - v := by
  have hsize := two_pow_eq_two_mul_halfRange hW
  have hlow : -(((2 ^ W : Nat) : Int) / 2) ≤ r ↔ -halfRange W ≤ r := by omega
  have hhigh : r < (((2 ^ W : Nat) : Int) + 1) / 2 ↔ r ≤ halfRange W - 1 := by omega
  rw [wrapW, Int.bmod_eq_iff (by positivity), hlow, hhigh, Nat.cast_pow, Nat.cast_ofNat, and_assoc]

theorem wrapW_isWord {W : Nat} (hW : 1 ≤ W) (v : Int) : IsWord W (wrapW W v) :=
  ((wrapW_eq_iff hW).mp rfl).1

theorem two_pow_dvd_wrapW_sub {W : Nat} (hW : 1 ≤ W) (v : Int) : (2 ^ W : Int) ∣ wrapW W v - v :=
  ((wrapW_eq_iff hW).mp rfl).2

/-- Settles O12: `wrapW_eq_iff` read for existence and for uniqueness. -/
theorem wrapGivesTheOneCongruentWord : Obligations.WrapGivesTheOneCongruentWord := by
  intro W v hW
  exact ⟨wrapW_isWord hW v, two_pow_dvd_wrapW_sub hW v, fun r hr hdvd => ((wrapW_eq_iff hW).mpr ⟨hr, hdvd⟩).symm⟩

end Sys2Proof

namespace Sys2Proof.Machine

/-- A three-operand instruction's operation whose every result is a word, as R6 asks of the ALU. -/
def WordValued (f : Config → Int → Int → Except FaultCause Int) : Prop :=
  ∀ {c : Config} {a b r : Int}, c.Ok → f c a b = .ok r → IsWord c.wordBits r

theorem fit_isWord {c : Config} {x r : Int} (hc : c.Ok) (h : fit c x = .ok r) : IsWord c.wordBits r := by
  by_cases hx : IsWord c.wordBits x
  · rw [fit_of_isWord hx] at h
    cases h
    exact hx
  · cases hp : c.overflow with
    | wrap =>
      rw [fit_of_wrap hx hp] at h
      cases h
      exact wrapW_isWord (one_le_two.trans hc) x
    | fault =>
      rw [fit_of_fault hx hp] at h
      cases h

theorem aluAdd_wordValued : WordValued aluAdd := fit_isWord

theorem aluMul_wordValued : WordValued aluMul := fit_isWord

theorem aluLt_wordValued : WordValued aluLt := by
  intro c a b r hc h
  cases h
  exact boolWord_isWord hc _

theorem aluEq_wordValued : WordValued aluEq := by
  intro c a b r hc h
  cases h
  exact boolWord_isWord hc _

end Sys2Proof.Machine
end

section
/-! ### One cell of memory (R9, R36, R37) -/

namespace Sys2Proof.Machine

variable {s : State} {a b v : Int}

/-- `MemRead` sees the memory only through `cellAt`. -/
theorem memRead_congr {s' : State} (acc : Access) (h : cellAt s'.mem b = cellAt s.mem b) :
    memRead s' acc b = memRead s acc b := by rw [memRead_eq, memRead_eq, h]

theorem memRead_storeCell_same (acc : Access) (h : s.mem.valid a = true) : memRead (s.storeCell a v) acc a = .ok v :=
  memRead_ok_iff.mpr (cellAt_setCell_same h)

theorem memRead_storeCell_other (acc : Access) (h : b ≠ a) : memRead (s.storeCell a v) acc b = memRead s acc b :=
  memRead_congr acc (cellAt_setCell_other h)

theorem memRead_of_not_valid (acc : Access) (h : s.mem.valid a = false) :
    memRead s acc a = .error (.outOfBounds a acc) :=
  memRead_error_iff.mpr ⟨cellAt_eq_none_iff.mpr h, rfl⟩

theorem not_valid_iff {m : Memory} : m.valid a = false ↔ a < 0 ∨ (m.length : Int) ≤ a := by
  rw [← Bool.not_eq_true, valid_iff]
  omega

/-- Settles O11: the write is `storeCell`, whose cells the laws of the tape give; outside the tape nothing answers. -/
theorem memoryReadsAndWritesOneCell : Obligations.MemoryReadsAndWritesOneCell := by
  intro s a v
  constructor
  · intro h
    have hv : s.mem.valid a = true := valid_iff.mpr h
    exact ⟨s.storeCell a v, memWrite_of_valid hv, rfl, length_setCell, fun acc => memRead_storeCell_same acc hv,
      fun b hb acc => memRead_storeCell_other acc hb⟩
  · intro h
    have hv : s.mem.valid a = false := not_valid_iff.mpr h
    exact ⟨memWrite_of_not_valid hv, fun acc => memRead_of_not_valid acc hv⟩

end Sys2Proof.Machine
end

section
/-! ### The parameters and the two streams (R5, R29, R31, R34) -/

namespace Sys2Proof.Machine

/-- The parameters stay, and each stream has gained one line at most. -/
def State.GrowsTo (s s' : State) : Prop :=
  s'.cfg = s.cfg ∧ (∃ ls, s'.consumed = s.consumed ++ ls ∧ ls.length ≤ 1) ∧
    ∃ ls, s'.output = s.output ++ ls ∧ ls.length ≤ 1

variable {s s' : State} {t v : Int}

theorem growsTo_of_eq (hcfg : s'.cfg = s.cfg) (hcon : s'.consumed = s.consumed) (hout : s'.output = s.output) :
    s.GrowsTo s' :=
  ⟨hcfg, ⟨[], by simp [hcon]⟩, ⟨[], by simp [hout]⟩⟩

theorem growsTo_of_consume {l : Line} (hcfg : s'.cfg = s.cfg) (hcon : s'.consumed = s.consumed ++ [l])
    (hout : s'.output = s.output) : s.GrowsTo s' :=
  ⟨hcfg, ⟨[l], hcon, le_rfl⟩, ⟨[], by simp [hout]⟩⟩

theorem growsTo_of_deliver {l : Line} (hcfg : s'.cfg = s.cfg) (hcon : s'.consumed = s.consumed)
    (hout : s'.output = s.output ++ [l]) : s.GrowsTo s' :=
  ⟨hcfg, ⟨[], by simp [hcon]⟩, ⟨[l], hout, le_rfl⟩⟩

/-- With its line consumed, the rest of a Read touches neither the parameters nor the streams. -/
theorem finishRead_keeps_streams (t : Int) (l : Line) (s : State) :
    (finishRead t l s).cfg = s.cfg ∧ (finishRead t l s).consumed = s.consumed ∧
      (finishRead t l s).output = s.output := by
  rcases finishRead_cases t l s with ⟨-, h⟩ | ⟨v, -, -, h⟩ | ⟨v, -, -, h⟩ <;> rw [h] <;> exact ⟨rfl, rfl, rfl⟩

theorem awaitInput_growsTo (t : Int) (s : State) : s.GrowsTo (awaitInput t s) := by
  obtain ⟨ans, src, -, ⟨-, h⟩ | ⟨-, h⟩ | ⟨l, -, h⟩⟩ := awaitInput_cases t s <;> rw [h]
  · exact growsTo_of_eq rfl rfl rfl
  · exact growsTo_of_eq rfl rfl rfl
  · obtain ⟨hcfg, hcon, hout⟩ := finishRead_keeps_streams t l ((s.setInput src).consume l)
    exact growsTo_of_consume hcfg hcon hout

theorem awaitSink_growsTo (v : Int) (s : State) : s.GrowsTo (awaitSink v s) := by
  obtain ⟨ans, k, -, ⟨-, h⟩ | ⟨-, h⟩ | ⟨-, h⟩⟩ := awaitSink_cases v s <;> rw [h]
  · exact growsTo_of_eq rfl rfl rfl
  · exact growsTo_of_eq rfl rfl rfl
  · exact growsTo_of_deliver rfl rfl rfl

theorem startRead_growsTo (t : Int) (s : State) : s.GrowsTo (startRead t s) := by
  rcases startRead_cases t s with ⟨-, h⟩ | ⟨-, h⟩ | ⟨-, h⟩ <;> rw [h]
  · exact awaitInput_growsTo t s
  · exact awaitInput_growsTo t s.countDraw
  · exact growsTo_of_eq rfl rfl rfl

theorem computeStore_growsTo {f : Config → Int → Int → Except FaultCause Int} {m1 m2 : Mode}
    (h : conclude s (computeStore f m1 m2 s) = .next s') : s.GrowsTo s' := by
  rcases computeStore_cases h with ⟨c, -, rfl⟩ | ⟨a, b, t, r, -, -, -, -, -, rfl⟩
  · exact growsTo_of_eq rfl rfl rfl
  · exact growsTo_of_eq rfl rfl rfl

theorem jumpWhen_growsTo {test : Int → Bool} {m1 m2 : Mode} (h : conclude s (jumpWhen test m1 m2 s) = .next s') :
    s.GrowsTo s' := by
  rcases jumpWhen_cases h with ⟨c, -, rfl⟩ | ⟨x, t, -, -, rfl⟩
  · exact growsTo_of_eq rfl rfl rfl
  · exact growsTo_of_eq rfl rfl rfl

theorem exec_growsTo {i : Instr} (h : exec i s = .next s') : s.GrowsTo s' := by
  cases i with
  | add m1 m2 m3 | mul m1 m2 m3 | lt m1 m2 m3 | eq m1 m2 m3 => exact computeStore_growsTo h
  | jnz m1 m2 m3 | jz m1 m2 m3 => exact jumpWhen_growsTo h
  | read m1 m2 m3 =>
    rcases execRead_cases h with ⟨-, rfl⟩ | ⟨t, -, rfl⟩
    · exact growsTo_of_eq rfl rfl rfl
    · exact startRead_growsTo t s
  | print m1 m2 m3 =>
    rcases execPrint_cases h with ⟨x, -, rfl⟩ | ⟨v, -, rfl⟩
    · exact growsTo_of_eq rfl rfl rfl
    · exact awaitSink_growsTo v s
  | halt m1 m2 m3 =>
    cases h
    exact growsTo_of_eq rfl rfl rfl

theorem stepIdle_growsTo (h : stepIdle s = .next s') : s.GrowsTo s' := by
  rcases stepIdle_cases h with ⟨-, rfl⟩ | ⟨image, -, -, rfl⟩ | ⟨-, -, rfl⟩ | ⟨-, -, rfl⟩ <;>
    exact growsTo_of_eq rfl rfl rfl

/-- Settles O53: what a step does after the control input is gone by, in each status. -/
theorem parametersStayAndStreamsOnlyGrow : Obligations.ParametersStayAndStreamsOnlyGrow := by
  intro s s' h
  rcases step_cases h with ⟨-, i, -, hx⟩ | ⟨-, c, -, rfl⟩ | ⟨t, -, rfl⟩ | ⟨v, -, rfl⟩ | ⟨-, hidle⟩
  · exact exec_growsTo (s := s.passControl) hx
  · exact growsTo_of_eq rfl rfl rfl
  · exact awaitInput_growsTo t s.passControl
  · exact awaitSink_growsTo v s.passControl
  · exact stepIdle_growsTo hidle

end Sys2Proof.Machine
end

section
/-! ### The invariant (R6, R16, R18, R21 to R25, R91)

`Grounded` is the part of the invariant that no status enters: raising a fault needs nothing else, and a step that
stays in the run needs beside it that no fault is recorded and that the wait, if there is one, is that of the
instruction at `ip`. -/

namespace Sys2Proof.Machine

/-- The clauses of the invariant about the parameters, the tape and the latch alone. -/
structure Grounded (c : Config) (m : Memory) (ip : Int) : Prop where
  cfg_ok : c.Ok
  mem_words : m.wf c.wordBits
  ip_range : (0 ≤ ip ∧ ip ≤ (m.length : Int)) ∨ IsWord c.wordBits ip

variable {s s' : State} {t v : Int} {k : Slot} {m m1 m2 m3 : Mode}

theorem State.Inv.grounded (h : s.Inv) : Grounded s.cfg s.mem s.ip := ⟨h.cfg_ok, h.mem_words, h.ip_range⟩

/-- No fault is recorded outside FAULTED (R23). -/
theorem State.Inv.fault_eq_none (h : s.Inv) (hs : s.status ≠ .faulted) : s.fault = none :=
  Option.not_isSome_iff_eq_none.mp fun hf => hs (h.fault_iff.mp hf)

/-- The control inputs are no part of the invariant. -/
theorem State.Inv.passControl (h : s.Inv) : s.passControl.Inv :=
  ⟨h.cfg_ok, h.mem_words, h.ip_range, h.fault_iff, h.fault_ip, h.ready_ip, h.wait_in, h.wait_out, h.halted_at⟩

theorem Grounded.storeCell {c : Config} {mem : Memory} {ip : Int} (h : Grounded c mem ip)
    (hv : IsWord c.wordBits v) : Grounded c (setCell mem t v) ip :=
  ⟨h.cfg_ok, setCell_keeps_wf h.mem_words hv, by simpa using h.ip_range⟩

theorem Grounded.loadWord {c : Config} {mem : Memory} {ip : Int} (h : Grounded c mem ip)
    (hv : IsWord c.wordBits v) : Grounded c mem v := ⟨h.cfg_ok, h.mem_words, .inr hv⟩

/-- The latch may be loaded with the address behind a slot whose raw word the instruction at `ip` has read: both ends
of the instruction then lie on the tape (R17, R18). -/
theorem Grounded.pastSlot {i : Instr} {n : Int} (h : Grounded s.cfg s.mem s.ip) (hi : s.instrAt = some i)
    (hk : s.mem.valid (s.ip + k.number) = true) (hn : n = k.number + 1) : Grounded s.cfg s.mem (s.ip + n) := by
  obtain ⟨w, hw, -⟩ := fetchDecode_ok_iff.mp (instrAt_eq_some_iff.mp hi)
  have hip := valid_iff.mp (valid_of_cellAt hw)
  have hslot := valid_iff.mp hk
  exact ⟨h.cfg_ok, h.mem_words, .inl (by omega)⟩

theorem param_valid_of_targetAt (h : targetAt s k = some t) : s.mem.valid (s.ip + k.number) = true := valid_of_cellAt h

theorem param_valid_of_operandAt (h : operandAt s k m = some v) : s.mem.valid (s.ip + k.number) = true := by
  obtain ⟨raw, hraw, -⟩ := Option.bind_eq_some_iff.mp h
  exact valid_of_cellAt hraw

/-- What the invariant asks of each status in which no fault is recorded. -/
abbrev State.StandsIn (s : State) : Status → Prop
  | .ready => s.ip = 0
  | .running => True
  | .waitIn t => (∃ m1 m2 m3, s.instrAt = some (.read m1 m2 m3)) ∧ targetAt s .p1 = some t
  | .waitOut v => ∃ m1 m2 m3, s.instrAt = some (.print m1 m2 m3) ∧ operandAt s .p1 m1 = some v
  | .halted => ∃ m1 m2 m3, s.instrAt = some (.halt m1 m2 m3)
  | .faulted => False

theorem inv_of_standsIn {st : Status} (h : Grounded s.cfg s.mem s.ip) (hf : s.fault = none) (hs : s.status = st)
    (hst : s.StandsIn st) : s.Inv := by
  have hat : ∀ {st' : Status}, s.status = st' → s.StandsIn st' := fun hs' => hs.symm.trans hs' ▸ hst
  exact
    { cfg_ok := h.cfg_ok
      mem_words := h.mem_words
      ip_range := h.ip_range
      fault_iff := ⟨fun hsome => by simp [hf] at hsome, fun hfaulted => (hat hfaulted).elim⟩
      fault_ip := fun r hr => by simp [hf] at hr
      ready_ip := hat
      wait_in := fun _ => hat
      wait_out := fun _ => hat
      halted_at := hat }

/-- Taking a fault needs nothing of the status it leaves (R91). -/
theorem raise_inv (h : Grounded s.cfg s.mem s.ip) (c : FaultCause) : (raise c s).Inv where
  cfg_ok := h.cfg_ok
  mem_words := h.mem_words
  ip_range := h.ip_range
  fault_iff := by simp
  fault_ip := by simp
  ready_ip := by simp
  wait_in := by simp
  wait_out := by simp
  halted_at := by simp

/-! What the parts of an instruction keep, begun in a grounded state with no fault recorded. -/

theorem finishRead_inv (h : Grounded s.cfg s.mem s.ip) (hnext : Grounded s.cfg s.mem (s.ip + 2)) (hf : s.fault = none)
    (t : Int) (l : Line) : (finishRead t l s).Inv := by
  rcases finishRead_cases t l s with ⟨-, hr⟩ | ⟨v, -, -, hr⟩ | ⟨v, hp, -, hr⟩ <;> rw [hr]
  · exact raise_inv h _
  · exact raise_inv h _
  · exact inv_of_standsIn (hnext.storeCell (parseWord_isWord hp)) hf rfl trivial

/-- One poll for the Read at `ip` (R75). -/
theorem awaitInput_inv (h : Grounded s.cfg s.mem s.ip) (hf : s.fault = none)
    (hi : s.instrAt = some (.read m1 m2 m3)) (ht : targetAt s .p1 = some t) : (awaitInput t s).Inv := by
  have hnext : Grounded s.cfg s.mem (s.ip + 2) := h.pastSlot hi (param_valid_of_targetAt ht) rfl
  obtain ⟨ans, src, -, ⟨-, hr⟩ | ⟨-, hr⟩ | ⟨l, -, hr⟩⟩ := awaitInput_cases t s <;> rw [hr]
  · exact inv_of_standsIn h hf rfl ⟨⟨m1, m2, m3, hi⟩, ht⟩
  · exact raise_inv (s := s.setInput src) h _
  · exact finishRead_inv (s := (s.setInput src).consume l) h hnext hf t l

theorem startRead_inv (h : Grounded s.cfg s.mem s.ip) (hf : s.fault = none)
    (hi : s.instrAt = some (.read m1 m2 m3)) (ht : targetAt s .p1 = some t) : (startRead t s).Inv := by
  rcases startRead_cases t s with ⟨-, hr⟩ | ⟨-, hr⟩ | ⟨-, hr⟩ <;> rw [hr]
  · exact awaitInput_inv h hf hi ht
  · exact awaitInput_inv (s := s.countDraw) h hf hi ht
  · exact raise_inv (s := s.countDraw) h _

/-- One poll for the Print at `ip` (R77). -/
theorem awaitSink_inv (h : Grounded s.cfg s.mem s.ip) (hf : s.fault = none)
    (hi : s.instrAt = some (.print m1 m2 m3)) (hv : operandAt s .p1 m1 = some v) : (awaitSink v s).Inv := by
  have hnext : Grounded s.cfg s.mem (s.ip + 2) := h.pastSlot hi (param_valid_of_operandAt hv) rfl
  obtain ⟨ans, k, -, ⟨-, hr⟩ | ⟨-, hr⟩ | ⟨-, hr⟩⟩ := awaitSink_cases v s <;> rw [hr]
  · exact inv_of_standsIn h hf rfl ⟨m1, m2, m3, hi, hv⟩
  · exact raise_inv (s := s.setSink k) h _
  · exact inv_of_standsIn hnext hf rfl trivial

/-- The word stored is one because the operation gives words, the new latch because slot 3 was read. -/
theorem computeStore_inv {f : Config → Int → Int → Except FaultCause Int} {i : Instr} (hword : WordValued f)
    (hinv : s.Inv) (hs : s.status = .running) (hi : s.instrAt = some i)
    (h : conclude s (computeStore f m1 m2 s) = .next s') : s'.Inv := by
  have hg := hinv.grounded
  rcases computeStore_cases h with ⟨c, -, rfl⟩ | ⟨a, b, t, r, -, -, ht, hr, -, rfl⟩
  · exact raise_inv hg c
  · have hnext : Grounded s.cfg s.mem (s.ip + 4) := hg.pastSlot hi (param_valid_of_targetAt ht) rfl
    exact inv_of_standsIn (hnext.storeCell (hword hg.cfg_ok hr)) (hinv.fault_eq_none (by simp [hs])) hs trivial

/-- A jump loads its second operand, a word of the tape, or the address behind slot 2. -/
theorem jumpWhen_inv {test : Int → Bool} {i : Instr} (hinv : s.Inv) (hs : s.status = .running)
    (hi : s.instrAt = some i) (h : conclude s (jumpWhen test m1 m2 s) = .next s') : s'.Inv := by
  have hg := hinv.grounded
  rcases jumpWhen_cases h with ⟨c, -, rfl⟩ | ⟨x, t, -, ht, rfl⟩
  · exact raise_inv hg c
  · have htaken : Grounded s.cfg s.mem t := hg.loadWord (operandAt_isWord hg.mem_words ht)
    have hnext : Grounded s.cfg s.mem (s.ip + 3) := hg.pastSlot hi (param_valid_of_operandAt ht) rfl
    have hload : Grounded s.cfg s.mem (if test x then t else s.ip + 3) := by
      split
      · exact htaken
      · exact hnext
    exact inv_of_standsIn hload (hinv.fault_eq_none (by simp [hs])) hs trivial

/-- Every instruction, run where it stands at `ip`, keeps the invariant. -/
theorem exec_inv {i : Instr} (hinv : s.Inv) (hs : s.status = .running) (hi : s.instrAt = some i)
    (h : exec i s = .next s') : s'.Inv := by
  have hg := hinv.grounded
  have hf : s.fault = none := hinv.fault_eq_none (by simp [hs])
  cases i with
  | add m1 m2 m3 => exact computeStore_inv aluAdd_wordValued hinv hs hi h
  | mul m1 m2 m3 => exact computeStore_inv aluMul_wordValued hinv hs hi h
  | lt m1 m2 m3 => exact computeStore_inv aluLt_wordValued hinv hs hi h
  | eq m1 m2 m3 => exact computeStore_inv aluEq_wordValued hinv hs hi h
  | jnz m1 m2 m3 | jz m1 m2 m3 => exact jumpWhen_inv hinv hs hi h
  | read m1 m2 m3 =>
    rcases execRead_cases h with ⟨-, rfl⟩ | ⟨t, ht, rfl⟩
    · exact raise_inv hg _
    · exact startRead_inv hg hf hi ht
  | print m1 m2 m3 =>
    rcases execPrint_cases h with ⟨x, -, rfl⟩ | ⟨v, hv, rfl⟩
    · exact raise_inv hg _
    · exact awaitSink_inv hg hf hi hv
  | halt m1 m2 m3 =>
    cases h
    exact inv_of_standsIn hg hf rfl ⟨m1, m2, m3, hi⟩

/-- `init` of an image of words sets up READY (R103), whatever was there before. -/
theorem init_inv {image : List Int} (hc : s.cfg.Ok) (hw : Memory.wf image s.cfg.wordBits) :
    State.Inv { s with mem := image, ip := 0, status := .ready, fault := none } :=
  inv_of_standsIn ⟨hc, hw, .inl ⟨le_rfl, Int.natCast_nonneg _⟩⟩ rfl rfl rfl

theorem stepIdle_inv (hinv : s.Inv) (h : stepIdle s = .next s') : s'.Inv := by
  rcases stepIdle_cases h with ⟨-, rfl⟩ | ⟨image, -, hw, rfl⟩ | ⟨-, hs, rfl⟩ | ⟨-, -, rfl⟩
  · exact hinv.passControl
  · exact init_inv (s := s.passControl) hinv.cfg_ok hw
  · exact inv_of_standsIn hinv.grounded (hinv.fault_eq_none (by simp [hs])) rfl trivial
  · exact hinv.passControl

/-- Settles O54: what a step does after the control input is gone by, in each status, keeps the invariant; in a wait
the invariant itself says which instruction stands at `ip`, and with which operand. -/
theorem everyStepKeepsTheInvariant : Obligations.EveryStepKeepsTheInvariant := by
  intro s s' hinv h
  have hpass : s.passControl.Inv := hinv.passControl
  rcases step_cases h with ⟨hs, i, hi, hx⟩ | ⟨-, c, -, rfl⟩ | ⟨t, hs, rfl⟩ | ⟨v, hs, rfl⟩ | ⟨-, hidle⟩
  · exact exec_inv hpass hs (instrAt_eq_some_iff.mpr hi) hx
  · exact raise_inv hpass.grounded c
  · obtain ⟨⟨m1, m2, m3, hi⟩, ht⟩ := hpass.wait_in t hs
    exact awaitInput_inv hpass.grounded (hpass.fault_eq_none (by simp [hs])) hi ht
  · obtain ⟨m1, m2, m3, hi, hv⟩ := hpass.wait_out v hs
    exact awaitSink_inv hpass.grounded (hpass.fault_eq_none (by simp [hs])) hi hv
  · exact stepIdle_inv hinv hidle

end Sys2Proof.Machine
end

section
/-! ### What an instruction and a step answer, given what they meet (R57, R75, R77)

The converses of the `_cases` laws: each equation has the one circumstance that decides the answer as its premise. -/

namespace Sys2Proof.Machine

variable {s s' : State} {t v x : Int} {m1 : Mode} {i : Instr} {c : FaultCause}

/-! One poll of a port. -/

theorem InputSource.poll_of_notYet {src : InputSource} {es : List InputEvent} (h : src.events = .notYet :: es) :
    src.poll = (.notYet, { events := es, rest := src.rest }) := by
  cases src
  cases h
  exact InputSource.poll_notYet es _

theorem InputSource.poll_of_silent {src : InputSource} (h : src.events = []) (hr : src.rest = .silent) :
    src.poll = (.notYet, src) := by
  cases src
  cases h
  cases hr
  exact InputSource.poll_silent

theorem Sink.poll_of_cons {k : Sink} {a : SinkAnswer} {as : List SinkAnswer} (h : k.answers = a :: as) :
    k.poll = (a, { answers := as, rest := k.rest }) := by
  cases k
  cases h
  exact Sink.poll_cons a as _

theorem Sink.poll_of_silent {k : Sink} (h : k.answers = []) (hr : k.rest = .notYet) : k.poll = (.notYet, k) := by
  cases k
  cases h
  cases hr
  exact Sink.poll_nil _

theorem awaitInput_of_notYet {src : InputSource} (h : s.input.poll = (.notYet, src)) :
    awaitInput t s = (s.setInput src).setStatus (.waitIn t) := by
  unfold awaitInput
  rw [h]

theorem awaitSink_of_notYet {k : Sink} (h : s.sink.poll = (.notYet, k)) :
    awaitSink v s = (s.setSink k).setStatus (.waitOut v) := by
  unfold awaitSink
  rw [h]

/-! The step that starts a Read or a Print. -/

theorem execRead_of_no_target (h : targetAt s .p1 = none) :
    execRead s = .next (raise (.outOfBounds (s.ip + 1) .read) s) := by
  unfold execRead
  rw [target_error_iff.mpr ⟨h, rfl⟩]
  rfl

theorem execRead_of_target (h : targetAt s .p1 = some t) : execRead s = .next (startRead t s) := by
  unfold execRead
  rw [target_ok_iff.mpr h]

theorem startRead_of_valid (h : s.mem.valid t = true) : startRead t s = awaitInput t s := if_pos h

theorem execRead_of_valid_target (ht : targetAt s .p1 = some t) (hv : s.mem.valid t = true) :
    execRead s = .next (awaitInput t s) := by
  rw [execRead_of_target ht, startRead_of_valid hv]

theorem execPrint_of_no_operand (h : operandFaultAt s .p1 m1 = some x) :
    execPrint m1 s = .next (raise (.outOfBounds x .read) s) := by
  unfold execPrint
  rw [resolve_error_iff.mpr ⟨x, h, rfl⟩]

theorem execPrint_of_operand (h : operandAt s .p1 m1 = some v) : execPrint m1 s = .next (awaitSink v s) := by
  unfold execPrint
  rw [resolve_ok_iff.mpr h]

/-! The end of an instruction, and the step in RUNNING. -/

theorem conclude_of_ok {r : Except FaultCause State} (h : r = .ok s') : conclude s r = .next s' := by
  rw [h, conclude_ok]

theorem conclude_of_error {r : Except FaultCause State} (h : r = .error c) : conclude s r = .next (raise c s) := by
  rw [h, conclude_error]

theorem step_of_instrAt (hs : s.status = .running) (hi : s.instrAt = some i) : step s = exec i s.passControl := by
  unfold step
  simp only [hs, instrAt_eq_some_iff.mp hi]

theorem step_of_fetchDecode_error (hs : s.status = .running) (hf : fetchDecode s = .error c) :
    step s = .next (raise c s.passControl) := by
  unfold step
  simp only [hs, hf]

end Sys2Proof.Machine
end

section
/-! ### A jump outside the tape (R18, R80, D6) -/

namespace Sys2Proof.Machine

theorem execJnz_of_nonzero {s : State} {m1 m2 : Mode} {c t : Int} (h1 : operandAt s .p1 m1 = some c) (hc : c ≠ 0)
    (h2 : operandAt s .p2 m2 = some t) : execJnz m1 m2 s = .next (s.loadIp t) := by
  have hloads : s.loadIp t = s.loadIp (if !isZero c then t else s.ip + 3) := by simp [isZero, hc]
  exact conclude_of_ok (jumpWhen_ok_iff.mpr ⟨c, t, h1, h2, hloads⟩)

/-- In RUNNING with the latch outside the tape there is no word to fetch. -/
theorem step_of_ip_not_valid {s : State} (hs : s.status = .running) (hip : s.mem.valid s.ip = false) :
    step s = .next (raise (.outOfBounds s.ip .fetch) s.passControl) :=
  step_of_fetchDecode_error hs (fetchDecode_error_iff.mpr (.inl ⟨cellAt_eq_none_iff.mpr hip, rfl⟩))

/-- Settles O23: the jump loads its operand unchecked, and the fetch there finds no cell. -/
theorem jumpOutsideTheTapeFaultsAtTheNextFetch : Obligations.JumpOutsideTheTapeFaultsAtTheNextFetch := by
  intro s m1 m2 m3 c t hs hi h1 hc h2 ht
  constructor
  · exact (step_of_instrAt hs hi).trans (execJnz_of_nonzero (s := s.passControl) h1 hc h2)
  · exact step_of_ip_not_valid (s := s.passControl.loadIp t) hs ht

end Sys2Proof.Machine
end

section
/-! ### Waiting for a port (R22, R30, R32, R102)

The states a wait passes through differ from the one it began in by the control inputs gone by and the port's position
alone; each is the step of the one before, so a run of them is one use of `core_run_of_chain`. -/

namespace Sys2Proof.Machine

variable {n k : Nat} {s : State} {t v : Int}

/-- A run along a sequence of states each of which is the step of the one before. -/
theorem core_run_of_chain {F : Nat → State} (h : ∀ k < n, step (F k) = .next (F (k + 1))) :
    Sys2Proof.core.run n (F 0) = .next (F n) := by
  induction n with
  | zero => exact core_run_zero (F 0)
  | succ n ih =>
    have hfirst : Sys2Proof.core.run n (F 0) = .next (F n) := ih fun k hk => h k (by omega)
    rw [core_run_add hfirst, core_run_one]
    exact h n (by omega)

/-- The state with k control inputs gone by and the input source at `src`. -/
def State.afterInputPolls (s : State) (k : Nat) (src : InputSource) : State :=
  { s with control := s.control.drop k, input := src }

/-- The state with k control inputs gone by and the output sink at `snk`. -/
def State.afterSinkPolls (s : State) (k : Nat) (snk : Sink) : State :=
  { s with control := s.control.drop k, sink := snk }

theorem State.afterInputPolls_passControl (s : State) (k : Nat) (src : InputSource) :
    (s.afterInputPolls k src).passControl = s.afterInputPolls (k + 1) src := by
  simp [State.afterInputPolls, State.passControl]

theorem State.afterSinkPolls_passControl (s : State) (k : Nat) (snk : Sink) :
    (s.afterSinkPolls k snk).passControl = s.afterSinkPolls (k + 1) snk := by
  simp [State.afterSinkPolls, State.passControl]

theorem State.setStatus_of_eq {st : Status} (h : s.status = st) : s.setStatus st = s := by
  subst h
  rfl

/-- A poll without an answer is all that a step of a waiting Read does. -/
theorem step_afterInputPolls {src src' : InputSource} (hs : s.status = .waitIn t) (h : src.poll = (.notYet, src')) :
    step (s.afterInputPolls k src) = .next (s.afterInputPolls (k + 1) src') := by
  have hpoll : (s.afterInputPolls (k + 1) src).input.poll = (.notYet, src') := h
  have hwait : (s.afterInputPolls (k + 1) src').status = .waitIn t := hs
  rw [step_of_waitIn (s := s.afterInputPolls k src) hs, State.afterInputPolls_passControl, awaitInput_of_notYet hpoll]
  exact congrArg Host.Outcome.next (State.setStatus_of_eq hwait)

/-- A poll without an answer is all that a step of a waiting Print does. -/
theorem step_afterSinkPolls {snk snk' : Sink} (hs : s.status = .waitOut v) (h : snk.poll = (.notYet, snk')) :
    step (s.afterSinkPolls k snk) = .next (s.afterSinkPolls (k + 1) snk') := by
  have hpoll : (s.afterSinkPolls (k + 1) snk).sink.poll = (.notYet, snk') := h
  have hwait : (s.afterSinkPolls (k + 1) snk').status = .waitOut v := hs
  rw [step_of_waitOut (s := s.afterSinkPolls k snk) hs, State.afterSinkPolls_passControl, awaitSink_of_notYet hpoll]
  exact congrArg Host.Outcome.next (State.setStatus_of_eq hwait)

/-- The source that is silent for `late` polls and then goes on with `es`. -/
def lateSource (es : List InputEvent) (rest : InputRest) (late : Nat) : InputSource :=
  { events := List.replicate late .notYet ++ es, rest := rest }

/-- The sink that is silent for `late` polls and then goes on with `as`. -/
def lateSink (as : List SinkAnswer) (rest : SinkAnswer) (late : Nat) : Sink :=
  { answers := List.replicate late .notYet ++ as, rest := rest }

theorem lateSource_poll {es : List InputEvent} {rest : InputRest} (hk : k < n) :
    (lateSource es rest (n - k)).poll = (.notYet, lateSource es rest (n - (k + 1))) := by
  rw [show n - k = n - (k + 1) + 1 by omega]
  rfl

theorem lateSink_poll {as : List SinkAnswer} {rest : SinkAnswer} (hk : k < n) :
    (lateSink as rest (n - k)).poll = (.notYet, lateSink as rest (n - (k + 1))) := by
  rw [show n - k = n - (k + 1) + 1 by omega]
  rfl

theorem eq_lateSource {src : InputSource} {es : List InputEvent} (h : src.events = List.replicate n .notYet ++ es) :
    src = lateSource es src.rest n := by
  rw [lateSource, ← h]

theorem eq_lateSink {snk : Sink} {as : List SinkAnswer} (h : snk.answers = List.replicate n .notYet ++ as) :
    snk = lateSink as snk.rest n := by
  rw [lateSink, ← h]

theorem core_run_waitIn_late {es : List InputEvent} (hs : s.status = .waitIn t)
    (h : s.input.events = List.replicate n .notYet ++ es) :
    Sys2Proof.core.run n s = .next (s.afterInputPolls n { events := es, rest := s.input.rest }) := by
  have hrun := core_run_of_chain (n := n) (F := fun k => s.afterInputPolls k (lateSource es s.input.rest (n - k)))
    fun k hk => step_afterInputPolls hs (lateSource_poll hk)
  rw [Nat.sub_zero, Nat.sub_self, ← eq_lateSource h] at hrun
  exact hrun

theorem core_run_waitOut_late {as : List SinkAnswer} (hs : s.status = .waitOut v)
    (h : s.sink.answers = List.replicate n .notYet ++ as) :
    Sys2Proof.core.run n s = .next (s.afterSinkPolls n { answers := as, rest := s.sink.rest }) := by
  have hrun := core_run_of_chain (n := n) (F := fun k => s.afterSinkPolls k (lateSink as s.sink.rest (n - k)))
    fun k hk => step_afterSinkPolls hs (lateSink_poll hk)
  rw [Nat.sub_zero, Nat.sub_self, ← eq_lateSink h] at hrun
  exact hrun

/-- Settles O34: each step of the wait is one poll without an answer; a silent source stays where it is. -/
theorem anInputRequestWaitsUntilItIsAnswered : Obligations.AnInputRequestWaitsUntilItIsAnswered := by
  intro n s t hs
  constructor
  · intro es hev
    exact core_run_waitIn_late hs hev
  · intro hev hrest
    exact core_run_of_chain (F := fun k => s.afterInputPolls k s.input)
      fun k _ => step_afterInputPolls hs (InputSource.poll_of_silent hev hrest)

/-- Settles O35: each step of the wait is one poll without an answer; a sink that never answers stays as it is. -/
theorem anOutputOfferWaitsUntilItIsAnswered : Obligations.AnOutputOfferWaitsUntilItIsAnswered := by
  intro n s v hs
  constructor
  · intro as hans
    exact core_run_waitOut_late hs hans
  · intro hans hrest
    exact core_run_of_chain (F := fun k => s.afterSinkPolls k s.sink)
      fun k _ => step_afterSinkPolls hs (Sink.poll_of_silent hans hrest)

theorem execRead_of_notYet {src : InputSource} (ht : targetAt s .p1 = some t) (hv : s.mem.valid t = true)
    (hpoll : s.input.poll = (.notYet, src)) : execRead s = .next ((s.setInput src).setStatus (.waitIn t)) := by
  rw [execRead_of_valid_target ht hv, awaitInput_of_notYet hpoll]

theorem execPrint_of_notYet {snk : Sink} {m1 : Mode} (hv : operandAt s .p1 m1 = some v)
    (hpoll : s.sink.poll = (.notYet, snk)) : execPrint m1 s = .next ((s.setSink snk).setStatus (.waitOut v)) := by
  rw [execPrint_of_operand hv, awaitSink_of_notYet hpoll]

/-- Settles O32: a late and a silent port are the two ways in which a poll gives no answer. -/
theorem anUnansweredPortMakesItsInstructionWait : Obligations.AnUnansweredPortMakesItsInstructionWait := by
  constructor
  · intro s m2 m3 t ht hv
    exact ⟨fun es hev => execRead_of_notYet ht hv (InputSource.poll_of_notYet hev),
      fun hev hrest => execRead_of_notYet ht hv (InputSource.poll_of_silent hev hrest)⟩
  · intro s m1 m2 m3 v hv
    exact ⟨fun as hans => execPrint_of_notYet hv (Sink.poll_of_cons hans),
      fun hans hrest => execPrint_of_notYet hv (Sink.poll_of_silent hans hrest)⟩

end Sys2Proof.Machine
end

section
/-! ### Late answers (R30, R32, R102)

A poll sets the status whatever the answer, so the step of a Read or Print in RUNNING is the step of one that waits with
the same operand; this takes the run into the wait at its beginning and out of it again at its last step. -/

namespace Sys2Proof.Machine

variable {k : Nat} {s s' : State} {t v : Int} {l : Line} {m1 m2 m3 : Mode}

theorem finishRead_of_malformed (h : parseWord s.cfg.wordBits l = none) :
    finishRead t l s = raise (.badInput .malformed) s := by
  unfold finishRead
  rw [h]

theorem finishRead_of_not_valid (h : parseWord s.cfg.wordBits l = some v) (hv : s.mem.valid t = false) :
    finishRead t l s = raise (.outOfBounds t .write) s := by
  unfold finishRead
  simp only [h, memWrite_of_not_valid hv]

theorem finishRead_of_valid (h : parseWord s.cfg.wordBits l = some v) (hv : s.mem.valid t = true) :
    finishRead t l s = ((s.storeCell t v).loadIp (s.ip + 2)).setStatus .running := by
  unfold finishRead
  simp only [h, memWrite_of_valid hv]

theorem finishRead_setStatus (t : Int) (l : Line) (s : State) (st : Status) :
    finishRead t l (s.setStatus st) = finishRead t l s := by
  rcases finishRead_cases t l s with ⟨hp, h⟩ | ⟨v, hp, hv, h⟩ | ⟨v, hp, hv, h⟩ <;> rw [h]
  · exact finishRead_of_malformed (s := s.setStatus st) hp
  · exact finishRead_of_not_valid (s := s.setStatus st) hp hv
  · exact finishRead_of_valid (s := s.setStatus st) hp hv

theorem awaitInput_setStatus (t : Int) (s : State) (st : Status) : awaitInput t (s.setStatus st) = awaitInput t s := by
  unfold awaitInput
  rw [State.setStatus_input]
  rcases s.input.poll with ⟨_ | _ | l, src⟩
  · rfl
  · rfl
  · exact finishRead_setStatus t l ((s.setInput src).consume l) st

theorem awaitSink_setStatus (v : Int) (s : State) (st : Status) : awaitSink v (s.setStatus st) = awaitSink v s := by
  unfold awaitSink
  rw [State.setStatus_sink]
  rcases s.sink.poll with ⟨_ | _ | _, snk⟩ <;> rfl

theorem step_read_eq_step_waitIn (hs : s.status = .running) (hi : s.instrAt = some (.read m1 m2 m3))
    (ht : targetAt s .p1 = some t) (hv : s.mem.valid t = true) : step s = step (s.setStatus (.waitIn t)) :=
  calc
    step s = .next (awaitInput t s.passControl) :=
      (step_of_instrAt hs hi).trans (execRead_of_valid_target (s := s.passControl) ht hv)
    _ = .next (awaitInput t (s.passControl.setStatus (.waitIn t))) := by rw [awaitInput_setStatus]
    _ = step (s.setStatus (.waitIn t)) := (step_of_waitIn (s := s.setStatus (.waitIn t)) rfl).symm

theorem step_print_eq_step_waitOut (hs : s.status = .running) (hi : s.instrAt = some (.print m1 m2 m3))
    (hv : operandAt s .p1 m1 = some v) : step s = step (s.setStatus (.waitOut v)) :=
  calc
    step s = .next (awaitSink v s.passControl) :=
      (step_of_instrAt hs hi).trans (execPrint_of_operand (s := s.passControl) hv)
    _ = .next (awaitSink v (s.passControl.setStatus (.waitOut v))) := by rw [awaitSink_setStatus]
    _ = step (s.setStatus (.waitOut v)) := (step_of_waitOut (s := s.setStatus (.waitOut v)) rfl).symm

/-- A run sees of the state it begins in no more than its first step does. -/
theorem core_run_congr (h : step s = step s') : Sys2Proof.core.run (k + 1) s = Sys2Proof.core.run (k + 1) s' := by
  have hcore : Sys2Proof.core.step s = Sys2Proof.core.step s' := h
  simp only [Host.Core.run, hcore]

theorem core_run_succ_last (h : Sys2Proof.core.run k s = .next s') : Sys2Proof.core.run (k + 1) s = step s' :=
  (core_run_add h).trans (core_run_one s')

/-- Settles O36: both sides step as if the instruction were waiting, and the wait is O34's or O35's. -/
theorem lateAnswersChangeNothingButTime : Obligations.LateAnswersChangeNothingButTime := by
  intro k s hs
  constructor
  · intro m1 m2 m3 t es hi ht hv _ _ hev
    have hwait := core_run_waitIn_late (s := s.setStatus (.waitIn t)) rfl hev
    have hlast := step_read_eq_step_waitIn (s := s.afterInputPolls k { events := es, rest := s.input.rest }) hs hi ht hv
    exact (core_run_congr (step_read_eq_step_waitIn hs hi ht hv)).trans ((core_run_succ_last hwait).trans hlast.symm)
  · intro m1 m2 m3 v as hi hv _ _ hans
    have hwait := core_run_waitOut_late (s := s.setStatus (.waitOut v)) rfl hans
    have hlast := step_print_eq_step_waitOut (s := s.afterSinkPolls k { answers := as, rest := s.sink.rest }) hs hi hv
    exact (core_run_congr (step_print_eq_step_waitOut hs hi hv)).trans ((core_run_succ_last hwait).trans hlast.symm)

end Sys2Proof.Machine
end

section
/-! ### The next `ip` (R17, R60) -/

namespace Sys2Proof.Machine

variable {s s' : State} {t v : Int} {m1 m2 : Mode} {i : Instr}

/-- The latch of an instruction of length n that does not jump: loaded where the instruction completes, kept where it
faults, waits or halts. -/
def State.AdvancesBy (s : State) (n : Nat) (s' : State) : Prop :=
  (s'.status = .running → s'.ip = s.ip + n) ∧ (s'.status ≠ .running → s'.ip = s.ip)

theorem advancesBy_of_completed {n : Nat} (hs : s'.status = .running) (hip : s'.ip = s.ip + n) : s.AdvancesBy n s' :=
  ⟨fun _ => hip, fun h => absurd hs h⟩

theorem advancesBy_of_not_completed {n : Nat} (hs : s'.status ≠ .running) (hip : s'.ip = s.ip) : s.AdvancesBy n s' :=
  ⟨fun h => absurd h hs, fun _ => hip⟩

theorem raise_advancesBy (n : Nat) (c : FaultCause) (s : State) : s.AdvancesBy n (raise c s) :=
  advancesBy_of_not_completed (by simp) rfl

theorem finishRead_advancesBy (t : Int) (l : Line) (s : State) : s.AdvancesBy 2 (finishRead t l s) := by
  rcases finishRead_cases t l s with ⟨-, h⟩ | ⟨v, -, -, h⟩ | ⟨v, -, -, h⟩ <;> rw [h]
  · exact raise_advancesBy 2 _ s
  · exact raise_advancesBy 2 _ s
  · exact advancesBy_of_completed rfl rfl

theorem awaitInput_advancesBy (t : Int) (s : State) : s.AdvancesBy 2 (awaitInput t s) := by
  obtain ⟨ans, src, -, ⟨-, h⟩ | ⟨-, h⟩ | ⟨l, -, h⟩⟩ := awaitInput_cases t s <;> rw [h]
  · exact advancesBy_of_not_completed (by simp) rfl
  · exact raise_advancesBy 2 _ (s.setInput src)
  · exact finishRead_advancesBy t l ((s.setInput src).consume l)

theorem startRead_advancesBy (t : Int) (s : State) : s.AdvancesBy 2 (startRead t s) := by
  rcases startRead_cases t s with ⟨-, h⟩ | ⟨-, h⟩ | ⟨-, h⟩ <;> rw [h]
  · exact awaitInput_advancesBy t s
  · exact awaitInput_advancesBy t s.countDraw
  · exact raise_advancesBy 2 _ s.countDraw

theorem awaitSink_advancesBy (v : Int) (s : State) : s.AdvancesBy 2 (awaitSink v s) := by
  obtain ⟨ans, k, -, ⟨-, h⟩ | ⟨-, h⟩ | ⟨-, h⟩⟩ := awaitSink_cases v s <;> rw [h]
  · exact advancesBy_of_not_completed (by simp) rfl
  · exact raise_advancesBy 2 _ (s.setSink k)
  · exact advancesBy_of_completed rfl rfl

theorem computeStore_advancesBy {f : Config → Int → Int → Except FaultCause Int} (hs : s.status = .running)
    (h : conclude s (computeStore f m1 m2 s) = .next s') : s.AdvancesBy 4 s' := by
  rcases computeStore_cases h with ⟨c, -, rfl⟩ | ⟨a, b, t, r, -, -, -, -, -, rfl⟩
  · exact raise_advancesBy 4 c s
  · exact advancesBy_of_completed hs rfl

/-- Every instruction but the jumps loads `ip` plus its length, where it completes. -/
theorem exec_advancesBy (h5 : i.opcode ≠ 5) (h6 : i.opcode ≠ 6) (hs : s.status = .running) (h : exec i s = .next s') :
    s.AdvancesBy i.length s' := by
  cases i with
  | add m1 m2 m3 | mul m1 m2 m3 | lt m1 m2 m3 | eq m1 m2 m3 => exact computeStore_advancesBy hs h
  | jnz m1 m2 m3 => exact absurd rfl h5
  | jz m1 m2 m3 => exact absurd rfl h6
  | read m1 m2 m3 =>
    rcases execRead_cases h with ⟨-, rfl⟩ | ⟨t, -, rfl⟩
    · exact raise_advancesBy 2 _ s
    · exact startRead_advancesBy t s
  | print m1 m2 m3 =>
    rcases execPrint_cases h with ⟨x, -, rfl⟩ | ⟨v, -, rfl⟩
    · exact raise_advancesBy 2 _ s
    · exact awaitSink_advancesBy v s
  | halt m1 m2 m3 =>
    cases h
    exact advancesBy_of_not_completed (by simp) rfl

/-- A jump that completes loads its second operand or `ip + 3`, by the test of its first; a fault keeps the latch. -/
theorem jumpWhen_next_ip {test : Int → Bool} (hs : s.status = .running)
    (h : conclude s (jumpWhen test m1 m2 s) = .next s') :
    (s'.status = .running → ∃ c t, operandAt s .p1 m1 = some c ∧ operandAt s .p2 m2 = some t ∧
      s'.ip = if test c then t else s.ip + 3) ∧
    (s'.status ≠ .running → s'.ip = s.ip) := by
  rcases jumpWhen_cases h with ⟨c, -, rfl⟩ | ⟨c, t, hc, ht, rfl⟩
  · exact ⟨fun h => by simp at h, fun _ => rfl⟩
  · exact ⟨fun _ => ⟨c, t, hc, ht, rfl⟩, fun h => absurd hs h⟩

/-- The lengths of the dispatch table, by opcode (R60). -/
theorem length_by_opcode (i : Instr) :
    (i.length = 4 ↔ i.opcode = 1 ∨ i.opcode = 2 ∨ i.opcode = 7 ∨ i.opcode = 8) ∧
    (i.length = 2 ↔ i.opcode = 3 ∨ i.opcode = 4) ∧ (i.length = 3 ↔ i.opcode = 5 ∨ i.opcode = 6) ∧
    (i.length = 1 ↔ i.opcode = 99) := by
  cases i <;> simp [Instr.length, Instr.opcode]

/-- Settles O44: `AdvancesBy` the length for all but the jumps, which load by their test. -/
theorem eachInstructionLoadsTheNextIpOfTheTable : Obligations.EachInstructionLoadsTheNextIpOfTheTable := by
  refine ⟨length_by_opcode, fun i s s' hs h => ?_⟩
  cases i with
  | jnz m1 m2 m3 =>
    obtain ⟨hload, hkeep⟩ := jumpWhen_next_ip hs h
    refine ⟨fun hr => .inr ?_, hkeep⟩
    obtain ⟨c, t, hc, ht, hip⟩ := hload hr
    exact ⟨c, t, hc, ht, .inl ⟨rfl, by simpa [isZero] using hip⟩⟩
  | jz m1 m2 m3 =>
    obtain ⟨hload, hkeep⟩ := jumpWhen_next_ip hs h
    refine ⟨fun hr => .inr ?_, hkeep⟩
    obtain ⟨c, t, hc, ht, hip⟩ := hload hr
    exact ⟨c, t, hc, ht, .inr ⟨rfl, by simpa [isZero] using hip⟩⟩
  | _ =>
    obtain ⟨hload, hkeep⟩ := exec_advancesBy (by simp [Instr.opcode]) (by simp [Instr.opcode]) hs h
    exact ⟨fun hr => .inl ⟨by simp [Instr.opcode], by simp [Instr.opcode], hload hr⟩, hkeep⟩

end Sys2Proof.Machine
end

section
/-! ### The control inputs (R27, R28, D20)

An instruction, begun or waiting, neither reads the control inputs nor changes them: replacing them first or last is
the same. Replacing them by themselves, it follows that they stay. -/

namespace Sys2Proof.Machine

variable {s s' : State} {t v : Int} {m1 m2 : Mode} {i : Instr} {d : Control} {cs : List Control}

/-- The state with other control inputs from now on. -/
def State.withControl (s : State) (cs : List Control) : State := { s with control := cs }

theorem finishRead_withControl (t : Int) (l : Line) (s : State) (cs : List Control) :
    finishRead t l (s.withControl cs) = (finishRead t l s).withControl cs := by
  rcases finishRead_cases t l s with ⟨hp, h⟩ | ⟨v, hp, hv, h⟩ | ⟨v, hp, hv, h⟩ <;> rw [h]
  · exact finishRead_of_malformed (s := s.withControl cs) hp
  · exact finishRead_of_not_valid (s := s.withControl cs) hp hv
  · exact finishRead_of_valid (s := s.withControl cs) hp hv

theorem awaitInput_withControl (t : Int) (s : State) (cs : List Control) :
    awaitInput t (s.withControl cs) = (awaitInput t s).withControl cs := by
  have hinput : (s.withControl cs).input = s.input := rfl
  unfold awaitInput
  rw [hinput]
  rcases s.input.poll with ⟨_ | _ | l, src⟩
  · rfl
  · rfl
  · exact finishRead_withControl t l ((s.setInput src).consume l) cs

theorem startRead_withControl (t : Int) (s : State) (cs : List Control) :
    startRead t (s.withControl cs) = (startRead t s).withControl cs := by
  have hmem : (s.withControl cs).mem = s.mem := rfl
  have hdraws : (s.withControl cs).draws = s.draws := rfl
  unfold startRead
  rw [hmem, hdraws]
  split_ifs
  · exact awaitInput_withControl t s cs
  · exact awaitInput_withControl t s.countDraw cs
  · rfl

theorem awaitSink_withControl (v : Int) (s : State) (cs : List Control) :
    awaitSink v (s.withControl cs) = (awaitSink v s).withControl cs := by
  have hsink : (s.withControl cs).sink = s.sink := rfl
  unfold awaitSink
  rw [hsink]
  rcases s.sink.poll with ⟨_ | _ | _, k⟩ <;> rfl

theorem computeStore_withControl {f : Config → Int → Int → Except FaultCause Int}
    (h : conclude s (computeStore f m1 m2 s) = .next s') :
    conclude (s.withControl cs) (computeStore f m1 m2 (s.withControl cs)) = .next (s'.withControl cs) := by
  rcases computeStore_cases h with ⟨c, hc, rfl⟩ | ⟨a, b, t, r, ha, hb, ht, hr, hv, rfl⟩
  · rw [computeStore_error_iff] at hc
    exact conclude_of_error (s := s.withControl cs) (computeStore_error_iff.mpr hc)
  · exact conclude_of_ok (s := s.withControl cs) (computeStore_ok_iff.mpr ⟨a, b, t, r, ha, hb, ht, hr, hv, rfl⟩)

theorem jumpWhen_withControl {test : Int → Bool} (h : conclude s (jumpWhen test m1 m2 s) = .next s') :
    conclude (s.withControl cs) (jumpWhen test m1 m2 (s.withControl cs)) = .next (s'.withControl cs) := by
  rcases jumpWhen_cases h with ⟨c, hc, rfl⟩ | ⟨c, t, hc, ht, rfl⟩
  · exact conclude_of_error (s := s.withControl cs) (jumpWhen_error_iff.mpr hc)
  · exact conclude_of_ok (s := s.withControl cs) (jumpWhen_ok_iff.mpr ⟨c, t, hc, ht, rfl⟩)

theorem exec_withControl (h : exec i s = .next s') (cs : List Control) :
    exec i (s.withControl cs) = .next (s'.withControl cs) := by
  cases i with
  | add m1 m2 m3 | mul m1 m2 m3 | lt m1 m2 m3 | eq m1 m2 m3 => exact computeStore_withControl h
  | jnz m1 m2 m3 | jz m1 m2 m3 => exact jumpWhen_withControl h
  | read m1 m2 m3 =>
    rcases execRead_cases h with ⟨hn, rfl⟩ | ⟨t, ht, rfl⟩
    · exact execRead_of_no_target (s := s.withControl cs) hn
    · rw [← startRead_withControl]
      exact execRead_of_target (s := s.withControl cs) ht
  | print m1 m2 m3 =>
    rcases execPrint_cases h with ⟨x, hx, rfl⟩ | ⟨v, hv, rfl⟩
    · exact execPrint_of_no_operand (s := s.withControl cs) hx
    · rw [← awaitSink_withControl]
      exact execPrint_of_operand (s := s.withControl cs) hv
  | halt m1 m2 m3 =>
    cases h
    rfl

/-- A step of a run drops the control input asserted at it and passes the others by. -/
theorem step_withControl (hs : s.status.inRun = true) (h : step s = .next s') (cs : List Control) :
    step (s.withControl cs) = .next (s'.withControl cs.tail) := by
  rcases step_cases h with ⟨hr, i, hi, hx⟩ | ⟨hr, c, hc, rfl⟩ | ⟨t, hw, rfl⟩ | ⟨v, hw, rfl⟩ | ⟨hno, -⟩
  · exact (step_of_instrAt (s := s.withControl cs) hr (instrAt_eq_some_iff.mpr hi)).trans
      (exec_withControl hx cs.tail)
  · exact step_of_fetchDecode_error (s := s.withControl cs) hr hc
  · rw [← awaitInput_withControl]
    exact step_of_waitIn (s := s.withControl cs) hw
  · rw [← awaitSink_withControl]
    exact step_of_waitOut (s := s.withControl cs) hw
  · rw [hno] at hs
    cases hs

theorem step_control_of_inRun (hs : s.status.inRun = true) (h : step s = .next s') : s'.control = s.control.tail := by
  have hstep : step s = .next (s'.withControl s.control.tail) := step_withControl hs h s.control
  have hsame : s' = s'.withControl s.control.tail := Host.Outcome.next.inj (h.symm.trans hstep)
  exact congrArg State.control hsame

/-- Settles O57: the rest of the state does not depend on the control inputs, so these go by one at a time. -/
theorem controlInputsHaveNoEffectInARun : Obligations.ControlInputsHaveNoEffectInARun := by
  intro s s' cs hs h
  exact ⟨step_control_of_inRun hs h, step_withControl hs h cs⟩

theorem passControl_of_cons (h : s.control = d :: cs) : s.passControl = s.withControl cs := by
  rw [State.passControl, h]
  rfl

theorem not_inRun_of_ended {st : Status} (h : st.ended = true) : st.inRun = false ∧ st ≠ .ready := by
  cases st with
  | halted | faulted => exact ⟨rfl, by simp⟩
  | ready | running | waitIn t | waitOut v => cases h

theorem step_answers_of_inRun (hs : s.status.inRun = true) : ∃ s', step s = .next s' := by
  cases hst : s.status with
  | running =>
    cases hf : fetchDecode s with
    | ok i =>
      rw [step_of_instrAt hst (instrAt_eq_some_iff.mpr hf)]
      exact exec_answers i s.passControl
    | error c => exact ⟨_, step_of_fetchDecode_error hst hf⟩
  | waitIn t => exact ⟨_, step_of_waitIn hst⟩
  | waitOut v => exact ⟨_, step_of_waitOut hst⟩
  | ready | halted | faulted =>
    rw [hst] at hs
    cases hs

/-- In a run the control input asserted at the step makes no difference to the step. -/
theorem step_withControl_cons (hs : s.status.inRun = true) (hc : s.control = d :: cs) (d' : Control) :
    step s = step (s.withControl (d' :: cs)) := by
  obtain ⟨s', h⟩ := step_answers_of_inRun hs
  have hgone : s'.control = cs := by rw [step_control_of_inRun hs h, hc, List.tail_cons]
  rw [step_withControl hs h, h, List.tail_cons, ← hgone]
  rfl

/-- Settles O50: outside a run by what `stepIdle` does with the control input, in a run by O57. -/
theorem runStartsARunOnlyInReady : Obligations.RunStartsARunOnlyInReady := by
  intro s cs
  have hidle : s.status = .ready → step s = stepIdle s := fun hs => step_of_not_inRun (by rw [hs]; rfl)
  refine ⟨fun hs hc => ?_, fun hs hc => ?_, fun hs hc => ?_, fun hs hc => ?_, fun hs hc => ?_⟩
  · rw [hidle hs, stepIdle_run_of_ready (asserted_cons hc) hs, passControl_of_cons hc]
    rfl
  · obtain ⟨hno, hready⟩ := not_inRun_of_ended hs
    rw [step_of_not_inRun hno, stepIdle_run_of_not_ready (asserted_cons hc) hready, passControl_of_cons hc]
    rfl
  · exact step_withControl_cons hs hc .idle
  · rw [hidle hs, stepIdle_idle (asserted_cons hc), passControl_of_cons hc]
    rfl
  · rw [hidle hs, stepIdle_nil hc]

end Sys2Proof.Machine
end

section
/-! ### The size of the tape (R36, R45)

The one way in which a step of a run changes the tape is `setCell` at one address, which keeps the length; which address
that is, each shared operation says. -/

namespace Sys2Proof.Machine

/-- The tape is as before but for what the cell at `t` holds. -/
def State.StoresOnlyAt (s : State) (t : Int) (s' : State) : Prop :=
  s'.mem = s.mem ∨ ∃ v, s'.mem = setCell s.mem t v

variable {s s' : State} {t : Int} {m1 m2 : Mode}

theorem State.StoresOnlyAt.length_eq (h : s.StoresOnlyAt t s') : s'.mem.length = s.mem.length := by
  rcases h with h | ⟨v, h⟩ <;> rw [h]
  exact length_setCell

theorem finishRead_storesOnlyAt (t : Int) (l : Line) (s : State) : s.StoresOnlyAt t (finishRead t l s) := by
  rcases finishRead_cases t l s with ⟨-, h⟩ | ⟨v, -, -, h⟩ | ⟨v, -, -, h⟩ <;> rw [h]
  · exact .inl rfl
  · exact .inl rfl
  · exact .inr ⟨v, rfl⟩

theorem awaitInput_storesOnlyAt (t : Int) (s : State) : s.StoresOnlyAt t (awaitInput t s) := by
  obtain ⟨ans, src, -, ⟨-, h⟩ | ⟨-, h⟩ | ⟨l, -, h⟩⟩ := awaitInput_cases t s <;> rw [h]
  · exact .inl rfl
  · exact .inl rfl
  · exact finishRead_storesOnlyAt t l ((s.setInput src).consume l)

theorem startRead_storesOnlyAt (t : Int) (s : State) : s.StoresOnlyAt t (startRead t s) := by
  rcases startRead_cases t s with ⟨-, h⟩ | ⟨-, h⟩ | ⟨-, h⟩ <;> rw [h]
  · exact awaitInput_storesOnlyAt t s
  · exact awaitInput_storesOnlyAt t s.countDraw
  · exact .inl rfl

theorem awaitSink_mem (v : Int) (s : State) : (awaitSink v s).mem = s.mem := by
  obtain ⟨ans, k, -, ⟨-, h⟩ | ⟨-, h⟩ | ⟨-, h⟩⟩ := awaitSink_cases v s <;> rw [h] <;> rfl

theorem computeStore_mem {f : Config → Int → Int → Except FaultCause Int}
    (h : conclude s (computeStore f m1 m2 s) = .next s') :
    s'.mem = s.mem ∨ ∃ t r, targetAt s .p3 = some t ∧ s'.mem = setCell s.mem t r := by
  rcases computeStore_cases h with ⟨c, -, rfl⟩ | ⟨a, b, t, r, -, -, ht, -, -, rfl⟩
  · exact .inl rfl
  · exact .inr ⟨t, r, ht, rfl⟩

theorem jumpWhen_mem {test : Int → Bool} (h : conclude s (jumpWhen test m1 m2 s) = .next s') : s'.mem = s.mem := by
  rcases jumpWhen_cases h with ⟨c, -, rfl⟩ | ⟨x, t, -, -, rfl⟩ <;> rfl

theorem exec_mem_length {i : Instr} (h : exec i s = .next s') : s'.mem.length = s.mem.length := by
  cases i with
  | add m1 m2 m3 | mul m1 m2 m3 | lt m1 m2 m3 | eq m1 m2 m3 =>
    rcases computeStore_mem h with hmem | ⟨t, r, -, hmem⟩ <;> rw [hmem]
    exact length_setCell
  | jnz m1 m2 m3 | jz m1 m2 m3 => rw [jumpWhen_mem h]
  | read m1 m2 m3 =>
    rcases execRead_cases h with ⟨-, rfl⟩ | ⟨t, -, rfl⟩
    · rfl
    · exact (startRead_storesOnlyAt t s).length_eq
  | print m1 m2 m3 =>
    rcases execPrint_cases h with ⟨x, -, rfl⟩ | ⟨v, -, rfl⟩
    · rfl
    · rw [awaitSink_mem]
  | halt m1 m2 m3 =>
    cases h
    rfl

/-- Outside a run this fails: an `init` brings its own image, of any length (R103). -/
theorem step_mem_length_of_inRun (hs : s.status.inRun = true) (h : step s = .next s') :
    s'.mem.length = s.mem.length := by
  rcases step_cases h with ⟨-, i, -, hx⟩ | ⟨-, c, -, rfl⟩ | ⟨t, -, rfl⟩ | ⟨v, -, rfl⟩ | ⟨hno, -⟩
  · exact exec_mem_length (s := s.passControl) hx
  · rfl
  · exact (awaitInput_storesOnlyAt t s.passControl).length_eq
  · rw [awaitSink_mem, State.passControl_mem]
  · rw [hno] at hs
    cases hs

/-- Settles O46: each part of a step either keeps the tape or sets one cell of it; past the tape `MemWrite` faults. -/
theorem memoryIsNeverResizedInARun : Obligations.MemoryIsNeverResizedInARun :=
  ⟨fun _ _ hs h => step_mem_length_of_inRun hs h, fun _ _ _ ha => memWrite_of_not_valid (not_valid_iff.mpr (.inr ha))⟩

end Sys2Proof.Machine
end

section
/-! ### A stored word is fetched afresh (R46, R50, R73, R75) -/

namespace Sys2Proof.Machine

variable {s s' : State} {t a b r v : Int} {m : Memory} {m1 m2 : Mode} {l : Line}

theorem computeStore_of_result {f : Config → Int → Int → Except FaultCause Int} (h1 : operandAt s .p1 m1 = some a)
    (h2 : operandAt s .p2 m2 = some b) (ht : targetAt s .p3 = some t) (hr : f s.cfg a b = .ok r)
    (hv : s.mem.valid t = true) :
    conclude s (computeStore f m1 m2 s) = .next ((s.storeCell t r).loadIp (s.ip + 4)) :=
  conclude_of_ok (computeStore_ok_iff.mpr ⟨a, b, t, r, h1, h2, ht, hr, hv, rfl⟩)

theorem InputSource.poll_of_line {src : InputSource} {es : List InputEvent} (h : src.events = .line l :: es) :
    src.poll = (.line l, { events := es, rest := src.rest }) := by
  cases src
  cases h
  exact InputSource.poll_line l es _

theorem awaitInput_of_line {src : InputSource} (h : s.input.poll = (.line l, src)) :
    awaitInput t s = finishRead t l ((s.setInput src).consume l) := by
  unfold awaitInput
  rw [h]

/-- A Read completes at the first poll where that gives a line which denotes a word (R75). -/
theorem execRead_of_line {src : InputSource} (ht : targetAt s .p1 = some t) (hv : s.mem.valid t = true)
    (hpoll : s.input.poll = (.line l, src)) (hw : parseWord s.cfg.wordBits l = some v) :
    execRead s =
      .next (((((s.setInput src).consume l).storeCell t v).loadIp (s.ip + 2)).setStatus .running) := by
  rw [execRead_of_valid_target ht hv, awaitInput_of_line hpoll]
  exact congrArg Host.Outcome.next (finishRead_of_valid (s := (s.setInput src).consume l) hw hv)

/-- A step of a RUNNING machine whose `ip` is a cell just stored executes the word stored there: nothing of the tape
before the store is kept for the fetch. -/
theorem step_of_stored_word {j : Instr} (hs : s'.status = .running) (hmem : s'.mem = setCell m t v)
    (hip : s'.ip = t) (hv : m.valid t = true) (hd : decode v = .ok j) : step s' = exec j s'.passControl := by
  have hcell : cellAt s'.mem s'.ip = some v := by
    rw [hmem, hip]
    exact cellAt_setCell_same hv
  exact step_of_instrAt hs (instrAt_eq_some_iff.mpr (fetchDecode_ok_iff.mpr ⟨v, hcell, hd⟩))

/-- Settles O45: the first step stores the word and loads `ip` with its address, the second is
`step_of_stored_word`. -/
theorem aStoredOpcodeWordIsExecutedNext : Obligations.AStoredOpcodeWordIsExecutedNext := by
  constructor
  · intro s m1 m2 a b t j hs hi h1 h2 ht hnext hv hw hd
    have hadd : step s = .next ((s.passControl.storeCell t (a + b)).loadIp (s.ip + 4)) :=
      (step_of_instrAt hs hi).trans (computeStore_of_result (s := s.passControl) h1 h2 ht (fit_of_isWord hw) hv)
    exact ⟨_, hadd, hnext.symm, step_of_stored_word hs rfl hnext.symm hv hd⟩
  · intro s m2 m3 t v l es j hs hi ht hnext hv hev hw hd
    have hread := (step_of_instrAt hs hi).trans
      (execRead_of_line (s := s.passControl) ht hv (InputSource.poll_of_line hev) hw)
    exact ⟨_, hread, hnext.symm, step_of_stored_word rfl rfl hnext.symm hv hd⟩

end Sys2Proof.Machine
end

section
/-! ### Instructions by their opcode (R57, R60)

An instruction is its opcode and its three modes: `Instr.withModes` replaces the modes, and two instructions of one
opcode differ by that alone. -/

namespace Sys2Proof

/-- The opcodes of the dispatch table (R60). -/
abbrev KnownOpcode (op : Int) : Prop := 1 ≤ op ∧ op ≤ 8 ∨ op = 99

/-- The instruction with its three modes replaced. -/
def Instr.withModes (i : Instr) (m1 m2 m3 : Mode) : Instr :=
  match i with
  | .add .. => .add m1 m2 m3
  | .mul .. => .mul m1 m2 m3
  | .read .. => .read m1 m2 m3
  | .print .. => .print m1 m2 m3
  | .jnz .. => .jnz m1 m2 m3
  | .jz .. => .jz m1 m2 m3
  | .lt .. => .lt m1 m2 m3
  | .eq .. => .eq m1 m2 m3
  | .halt .. => .halt m1 m2 m3

variable {i j : Instr} {k : Slot} {op : Int} {m1 m2 m3 : Mode}

@[simp] theorem Instr.withModes_opcode (i : Instr) (m1 m2 m3 : Mode) : (i.withModes m1 m2 m3).opcode = i.opcode := by
  cases i <;> rfl

@[simp] theorem Instr.withModes_length (i : Instr) (m1 m2 m3 : Mode) : (i.withModes m1 m2 m3).length = i.length := by
  cases i <;> rfl

@[simp] theorem Instr.withModes_role (i : Instr) (m1 m2 m3 : Mode) (k : Slot) :
    (i.withModes m1 m2 m3).role k = i.role k := by
  cases i <;> cases k <;> rfl

@[simp] theorem Instr.withModes_mode_p1 (i : Instr) (m1 m2 m3 : Mode) : (i.withModes m1 m2 m3).mode .p1 = m1 := by
  cases i <;> rfl

@[simp] theorem Instr.withModes_mode_p2 (i : Instr) (m1 m2 m3 : Mode) : (i.withModes m1 m2 m3).mode .p2 = m2 := by
  cases i <;> rfl

@[simp] theorem Instr.withModes_mode_p3 (i : Instr) (m1 m2 m3 : Mode) : (i.withModes m1 m2 m3).mode .p3 = m3 := by
  cases i <;> rfl

@[simp] theorem Instr.withModes_own (i : Instr) : i.withModes (i.mode .p1) (i.mode .p2) (i.mode .p3) = i := by
  cases i <;> rfl

/-- The dispatch table selects an instruction by its opcode (R57 step 2). -/
@[simp] theorem instrOfOpcode_opcode (i : Instr) : instrOfOpcode i.opcode = some i.withModes := by
  cases i <;> rfl

/-- Two instructions of one opcode differ in their modes alone (R61). -/
theorem Instr.eq_withModes_of_opcode_eq (h : i.opcode = j.opcode) :
    j = i.withModes (j.mode .p1) (j.mode .p2) (j.mode .p3) := by
  have htable : some i.withModes = some j.withModes := by
    rw [← instrOfOpcode_opcode i, h, instrOfOpcode_opcode j]
  rw [Option.some.inj htable, Instr.withModes_own]

theorem Instr.opcode_known (i : Instr) : KnownOpcode i.opcode := by
  cases i <;> simp [KnownOpcode, Instr.opcode]

theorem exists_opcode_eq (h : KnownOpcode op) : ∃ i : Instr, i.opcode = op := by
  let p := Mode.positional
  have hop : op = 1 ∨ op = 2 ∨ op = 3 ∨ op = 4 ∨ op = 5 ∨ op = 6 ∨ op = 7 ∨ op = 8 ∨ op = 99 := by omega
  rcases hop with rfl | rfl | rfl | rfl | rfl | rfl | rfl | rfl | rfl
  exacts [⟨.add p p p, rfl⟩, ⟨.mul p p p, rfl⟩, ⟨.read p p p, rfl⟩, ⟨.print p p p, rfl⟩, ⟨.jnz p p p, rfl⟩,
    ⟨.jz p p p, rfl⟩, ⟨.lt p p p, rfl⟩, ⟨.eq p p p, rfl⟩, ⟨.halt p p p, rfl⟩]

theorem exists_opcode_modes (h : KnownOpcode op) (m1 m2 m3 : Mode) :
    ∃ i : Instr, i.opcode = op ∧ i.mode .p1 = m1 ∧ i.mode .p2 = m2 ∧ i.mode .p3 = m3 := by
  obtain ⟨i, hi⟩ := exists_opcode_eq h
  exact ⟨i.withModes m1 m2 m3, by simp [hi]⟩

theorem instrOfOpcode_of_unknown (h : ¬ KnownOpcode op) : instrOfOpcode op = none := by
  simp (disch := omega) only [instrOfOpcode, if_neg]

/-- The write slots of the dispatch table (R60): at most one an instruction. -/
theorem Instr.role_eq_write_iff :
    i.role k = .write ↔
      k = .p3 ∧ (i.opcode = 1 ∨ i.opcode = 2 ∨ i.opcode = 7 ∨ i.opcode = 8) ∨ k = .p1 ∧ i.opcode = 3 := by
  cases i <;> cases k <;> simp [Instr.role, Instr.opcode]

theorem Instr.role_write_unique {k' : Slot} (h : i.role k = .write) (h' : i.role k' = .write) : k = k' := by
  rw [Instr.role_eq_write_iff] at h h'
  obtain ⟨rfl, h⟩ | ⟨rfl, h⟩ := h
  · exact (h'.resolve_right (by omega)).1.symm
  · exact (h'.resolve_left (by omega)).1.symm

/-- The first write slot that is Immediate (R57) is the only one, there being one write slot at most. -/
theorem Instr.badWriteSlot_eq_some_iff : i.badWriteSlot = some k ↔ i.role k = .write ∧ i.mode k = .immediate := by
  have hbad : ∀ {k'}, i.badWriteSlot = some k' → i.role k' = .write ∧ i.mode k' = .immediate := fun h => by
    simpa using List.find?_some h
  refine ⟨hbad, fun ⟨hrole, hmode⟩ => ?_⟩
  have hsome : i.badWriteSlot.isSome = true :=
    List.find?_isSome.mpr ⟨k, by cases k <;> simp, by simp [hrole, hmode]⟩
  obtain ⟨k', hk'⟩ := Option.isSome_iff_exists.mp hsome
  rw [hk', Instr.role_write_unique (hbad hk').1 hrole]

theorem Instr.wellFormed_iff : i.wellFormed = true ↔ i.badWriteSlot = none := Option.isNone_iff_eq_none

end Sys2Proof
end

section
/-! ### The decoder by the word's fields (R53 to R60)

For a known opcode the decoder is three mode checks and the write check; so it answers the instruction `i` exactly
where the word's opcode field and mode digits are those of `i` and `i` is well-formed. -/

namespace Sys2Proof

variable {w w' : Int} {i : Instr} {k : Slot} {m m1 m2 m3 : Mode} {e : DecodeFault} {op d1 d2 d3 rest : Int}

/-- The word `w` holds the opcode and the modes of `i` (R53). -/
def HasFieldsOf (w : Int) (i : Instr) : Prop :=
  opcodeField w = i.opcode ∧ ∀ k, modeDigit k w = (i.mode k).digit

theorem decodeMode_ok_iff : decodeMode k w = .ok m ↔ modeDigit k w = m.digit := by
  rw [decodeMode_eq]
  by_cases h0 : modeDigit k w = 0
  · cases m <;> simp [h0, Mode.digit]
  · by_cases h1 : modeDigit k w = 1
    · cases m <;> simp [h1, Mode.digit]
    · cases m <;> simp [h0, h1, Mode.digit]

theorem decodeMode_of_two_le (h : 2 ≤ modeDigit k w) : decodeMode k w = .error (.invalidMode k (modeDigit k w)) := by
  rw [decodeMode_eq, if_neg (by omega), if_neg (by omega)]

theorem decode_of_unknown (h : ¬ KnownOpcode (opcodeField w)) : decode w = .error (.invalidOpcode (opcodeField w) w) := by
  simp only [decode, instrOfOpcode_of_unknown h]

/-- The decoder where the opcode field names the instruction `i` (R57 step 3). -/
theorem decode_of_opcode (h : opcodeField w = i.opcode) :
    decode w = (do
      let m1 ← decodeMode .p1 w
      let m2 ← decodeMode .p2 w
      let m3 ← decodeMode .p3 w
      checkWriteSlots (i.withModes m1 m2 m3)) := by
  simp only [decode, h, instrOfOpcode_opcode]

theorem decode_of_mode_error_p1 (h : KnownOpcode (opcodeField w)) (h1 : decodeMode .p1 w = .error e) :
    decode w = .error e := by
  obtain ⟨i, hi⟩ := exists_opcode_eq h
  rw [decode_of_opcode hi.symm, h1]
  rfl

theorem decode_of_mode_error_p2 (h : KnownOpcode (opcodeField w)) (h1 : decodeMode .p1 w = .ok m1)
    (h2 : decodeMode .p2 w = .error e) : decode w = .error e := by
  obtain ⟨i, hi⟩ := exists_opcode_eq h
  rw [decode_of_opcode hi.symm, h1, h2]
  rfl

theorem decode_of_mode_error_p3 (h : KnownOpcode (opcodeField w)) (h1 : decodeMode .p1 w = .ok m1)
    (h2 : decodeMode .p2 w = .ok m2) (h3 : decodeMode .p3 w = .error e) : decode w = .error e := by
  obtain ⟨i, hi⟩ := exists_opcode_eq h
  rw [decode_of_opcode hi.symm, h1, h2, h3]
  rfl

/-- Where the fields are those of `i`, the write check alone is left (R57). -/
theorem decode_of_fields (h : HasFieldsOf w i) : decode w = checkWriteSlots i := by
  obtain ⟨hop, hdigit⟩ := h
  have hmode : ∀ k, decodeMode k w = .ok (i.mode k) := fun k => decodeMode_ok_iff.mpr (hdigit k)
  rw [decode_of_opcode hop, hmode, hmode, hmode]
  exact congrArg checkWriteSlots i.withModes_own

theorem checkWriteSlots_of_wellFormed (h : i.wellFormed = true) : checkWriteSlots i = .ok i := by
  simp only [checkWriteSlots, Instr.wellFormed_iff.mp h]

theorem checkWriteSlots_of_bad (h : i.badWriteSlot = some k) : checkWriteSlots i = .error (.invalidWriteMode k) := by
  simp only [checkWriteSlots, h]

theorem checkWriteSlots_cases (i : Instr) :
    (i.wellFormed = true ∧ checkWriteSlots i = .ok i) ∨ ∃ k, checkWriteSlots i = .error (.invalidWriteMode k) := by
  cases hb : i.badWriteSlot with
  | none =>
    have hwf := Instr.wellFormed_iff.mpr hb
    exact .inl ⟨hwf, checkWriteSlots_of_wellFormed hwf⟩
  | some k => exact .inr ⟨k, checkWriteSlots_of_bad hb⟩

theorem decodeMode_cases (k : Slot) (w : Int) :
    (∃ m, decodeMode k w = .ok m) ∨ decodeMode k w = .error (.invalidMode k (modeDigit k w)) := by
  unfold decodeMode
  cases modeOfDigit (modeDigit k w) <;> simp

/-- Everything the decoder can answer, in the order of R57: opcode, mode digits, write slots. -/
theorem decode_cases (w : Int) :
    (¬ KnownOpcode (opcodeField w) ∧ decode w = .error (.invalidOpcode (opcodeField w) w)) ∨
    (∃ k, decode w = .error (.invalidMode k (modeDigit k w))) ∨
    ∃ i, HasFieldsOf w i ∧ decode w = checkWriteSlots i := by
  by_cases hop : KnownOpcode (opcodeField w)
  · obtain ⟨m1, h1⟩ | h1 := decodeMode_cases .p1 w
    · obtain ⟨m2, h2⟩ | h2 := decodeMode_cases .p2 w
      · obtain ⟨m3, h3⟩ | h3 := decodeMode_cases .p3 w
        · obtain ⟨i, hi, hm1, hm2, hm3⟩ := exists_opcode_modes hop m1 m2 m3
          have hfields : HasFieldsOf w i := by
            refine ⟨hi.symm, fun k => decodeMode_ok_iff.mp ?_⟩
            cases k
            · rw [hm1, h1]
            · rw [hm2, h2]
            · rw [hm3, h3]
          exact .inr (.inr ⟨i, hfields, decode_of_fields hfields⟩)
        · exact .inr (.inl ⟨.p3, decode_of_mode_error_p3 hop h1 h2 h3⟩)
      · exact .inr (.inl ⟨.p2, decode_of_mode_error_p2 hop h1 h2⟩)
    · exact .inr (.inl ⟨.p1, decode_of_mode_error_p1 hop h1⟩)
  · exact .inl ⟨hop, decode_of_unknown hop⟩

/-- A word that decodes has the fields of its instruction, and the write check has passed. -/
theorem fields_of_decode_ok (h : decode w = .ok i) : HasFieldsOf w i ∧ i.wellFormed = true := by
  obtain ⟨-, he⟩ | ⟨k, he⟩ | ⟨j, hfields, hj⟩ := decode_cases w
  · cases he.symm.trans h
  · cases he.symm.trans h
  · obtain ⟨hwf, hok⟩ | ⟨k, he⟩ := checkWriteSlots_cases j
    · cases (hj.trans hok).symm.trans h
      exact ⟨hfields, hwf⟩
    · cases (hj.trans he).symm.trans h

/-- What the decoder takes and as what (R53, R57, R60). -/
theorem decode_ok_iff : decode w = .ok i ↔ HasFieldsOf w i ∧ i.wellFormed = true :=
  ⟨fields_of_decode_ok, fun ⟨hfields, hwf⟩ => (decode_of_fields hfields).trans (checkWriteSlots_of_wellFormed hwf)⟩

/-- The decoder looks at a word of a known opcode through its fields alone (R59). -/
theorem decode_congr (hop : KnownOpcode (opcodeField w)) (h : opcodeField w' = opcodeField w)
    (hd : ∀ k, modeDigit k w' = modeDigit k w) : decode w' = decode w := by
  obtain ⟨i, hi⟩ := exists_opcode_eq hop
  have hmode : ∀ k, decodeMode k w' = decodeMode k w := fun k => by rw [decodeMode_eq, decodeMode_eq, hd k]
  rw [decode_of_opcode hi.symm, decode_of_opcode (h.trans hi.symm), hmode, hmode, hmode]

/-- A known opcode is not reported as InvalidOpcode. -/
theorem decode_ne_invalidOpcode (hop : KnownOpcode (opcodeField w)) (op v : Int) :
    decode w ≠ .error (.invalidOpcode op v) := by
  intro h
  obtain ⟨hun, -⟩ | ⟨k, he⟩ | ⟨j, -, hj⟩ := decode_cases w
  · exact hun hop
  · cases he.symm.trans h
  · obtain ⟨-, hok⟩ | ⟨k, he⟩ := checkWriteSlots_cases j
    · cases (hj.trans hok).symm.trans h
    · cases (hj.trans he).symm.trans h

/-! The fields of a non-negative word are its decimal digits (R8, R53). -/

theorem fields_of_decimal (hw : w = op + 100 * d1 + 1000 * d2 + 10000 * d3 + 100000 * rest) (hr : 0 ≤ rest)
    (hop : 0 ≤ op ∧ op ≤ 99) (h1 : 0 ≤ d1 ∧ d1 ≤ 9) (h2 : 0 ≤ d2 ∧ d2 ≤ 9) (h3 : 0 ≤ d3 ∧ d3 ≤ 9) :
    opcodeField w = op ∧ modeDigit .p1 w = d1 ∧ modeDigit .p2 w = d2 ∧ modeDigit .p3 w = d3 := by
  have h0 : 0 ≤ w := by omega
  rw [opcodeField_of_nonneg h0, modeDigit_p1 h0, modeDigit_p2 h0, modeDigit_p3 h0]
  omega

/-- A word below 100000 is the sum of its fields (R55). -/
theorem decimal_of_fields (h0 : 0 ≤ w) (h : w < 100000) :
    opcodeField w + 100 * modeDigit .p1 w + 1000 * modeDigit .p2 w + 10000 * modeDigit .p3 w = w := by
  rw [opcodeField_of_nonneg h0, modeDigit_p1 h0, modeDigit_p2 h0, modeDigit_p3 h0]
  omega

theorem opcodeField_of_neg (h : w < 0) : -99 ≤ opcodeField w ∧ opcodeField w ≤ 0 ∧ ∃ q, w = 100 * q + opcodeField w := by
  have hfield : opcodeField w = -(-w % 100) := by
    rw [opcodeField, ← Int.tmod_eq_emod_of_nonneg (by omega), Int.neg_tmod, neg_neg]
  exact ⟨by omega, by omega, -(-w / 100), by omega⟩

/-- A negative word has no opcode (R54, D4). -/
theorem nonneg_of_known (h : KnownOpcode (opcodeField w)) : 0 ≤ w := by
  by_contra hneg
  have := opcodeField_of_neg (not_le.mp hneg)
  omega

theorem modeDigit_add_high (hw : 0 ≤ w) (hn : 0 ≤ rest) (k : Slot) :
    modeDigit k (w + 100000 * rest) = modeDigit k w := by
  have h : 0 ≤ w + 100000 * rest := by omega
  cases k
  · rw [modeDigit_p1 hw, modeDigit_p1 h]
    omega
  · rw [modeDigit_p2 hw, modeDigit_p2 h]
    omega
  · rw [modeDigit_p3 hw, modeDigit_p3 h]
    omega

theorem opcodeField_add_high (hw : 0 ≤ w) (hn : 0 ≤ rest) : opcodeField (w + 100000 * rest) = opcodeField w := by
  rw [opcodeField_of_nonneg hw, opcodeField_of_nonneg (by omega)]
  omega

end Sys2Proof
end

section
/-! ### The encoding (R53 to R61) -/

namespace Sys2Proof

variable {w d : Int} {i : Instr}

/-- The nine laws of the encoded word's fields, as one. -/
theorem encodingFields (i : Instr) : Laws.EncodingFields.Statement i := by
  cases i
  exacts [Laws.EncodingFields.add .., Laws.EncodingFields.mul .., Laws.EncodingFields.read ..,
    Laws.EncodingFields.print .., Laws.EncodingFields.jnz .., Laws.EncodingFields.jz .., Laws.EncodingFields.lt ..,
    Laws.EncodingFields.eq .., Laws.EncodingFields.halt ..]

theorem encode_hasFieldsOf (i : Instr) : HasFieldsOf (encode i) i := by
  obtain ⟨-, -, hop, hdigit⟩ := encodingFields i
  exact ⟨hop, hdigit⟩

/-- The fields determine a word below 100000 (R55). -/
theorem encode_of_fields (h : w < 100000) (hf : HasFieldsOf w i) : encode i = w := by
  obtain ⟨hop, hdigit⟩ := hf
  have h0 : 0 ≤ w := nonneg_of_known (hop ▸ i.opcode_known)
  rw [encode, ← hop, ← hdigit, ← hdigit, ← hdigit, decimal_of_fields h0 h]

/-- Settles O1: both directions go through the word's fields, which the encoding writes and `decode_ok_iff` reads. -/
theorem encodeAndDecodeAreInverse : Obligations.EncodeAndDecodeAreInverse := by
  constructor
  · intro i hwf
    obtain ⟨hpos, hlt, -, -⟩ := encodingFields i
    exact ⟨hpos.le, hlt, decode_ok_iff.mpr ⟨encode_hasFieldsOf i, hwf⟩⟩
  · intro w i hlt hd
    obtain ⟨hfields, hwf⟩ := decode_ok_iff.mp hd
    exact ⟨hwf, encode_of_fields hlt hfields⟩

/-- Settles O2: the fields of both words are the same; what an unknown opcode answers names the whole word. -/
theorem decodeIgnoresDigitsAboveTheFifth : Obligations.DecodeIgnoresDigitsAboveTheFifth := by
  intro w n hw hn
  have hfield := opcodeField_add_high hw hn
  by_cases hop : KnownOpcode (opcodeField w)
  · have hsame : decode (w + 100000 * n) = decode w := decode_congr hop hfield (modeDigit_add_high hw hn)
    have hno := decode_ne_invalidOpcode hop
    rw [hsame]
    exact ⟨fun i => .rfl, fun op => iff_of_false (hno op _) (hno op _), fun slot d => .rfl, fun slot => .rfl⟩
  · rw [decode_of_unknown hop, decode_of_unknown (hfield ▸ hop), hfield]
    simp

/-- Settles O3: neither field is a known opcode. -/
theorem wordWithoutAKnownOpcodeIsInvalidOpcode : Obligations.WordWithoutAKnownOpcodeIsInvalidOpcode := by
  constructor
  · intro w hw
    obtain ⟨hlow, hhigh, hq⟩ := opcodeField_of_neg hw
    exact ⟨opcodeField w, hlow, hhigh, hq, decode_of_unknown (by omega)⟩
  · intro w op rest hw hrest hop
    have hfield : opcodeField w = op := by
      rw [opcodeField_of_nonneg (by omega)]
      omega
    rw [decode_of_unknown (by omega), hfield]

/-- A digit 0 or 1 is that of a mode (R56). -/
theorem exists_mode_of_digit (h : d = 0 ∨ d = 1) : ∃ m : Mode, m.digit = d := by
  rcases h with rfl | rfl
  exacts [⟨.positional, rfl⟩, ⟨.immediate, rfl⟩]

theorem Mode.digit_eq_one_iff {m : Mode} : m.digit = 1 ↔ m = .immediate := by cases m <;> simp [Mode.digit]

/-- Every opcode admits every combination of mode digits, the write check apart (R53, R58). -/
theorem exists_instr_of_fields {op d1 d2 d3 : Int} (hop : KnownOpcode op) (h1 : d1 = 0 ∨ d1 = 1)
    (h2 : d2 = 0 ∨ d2 = 1) (h3 : d3 = 0 ∨ d3 = 1) :
    ∃ i : Instr, i.opcode = op ∧ (i.mode .p1).digit = d1 ∧ (i.mode .p2).digit = d2 ∧ (i.mode .p3).digit = d3 := by
  obtain ⟨m1, rfl⟩ := exists_mode_of_digit h1
  obtain ⟨m2, rfl⟩ := exists_mode_of_digit h2
  obtain ⟨m3, rfl⟩ := exists_mode_of_digit h3
  obtain ⟨i, hi, hm1, hm2, hm3⟩ := exists_opcode_modes hop m1 m2 m3
  exact ⟨i, hi, by rw [hm1], by rw [hm2], by rw [hm3]⟩

/-- Settles O5: `decode_of_fields` leaves the write check, whose slot the opcode names. -/
theorem wordsWithModeDigitsZeroAndOneDecodeByTheTable : Obligations.WordsWithModeDigitsZeroAndOneDecodeByTheTable := by
  intro w op d1 d2 d3 rest hw hr hop h1 h2 h3
  obtain ⟨hfield, hd1, hd2, hd3⟩ := fields_of_decimal hw hr (by omega) (by omega) (by omega) (by omega)
  obtain ⟨i, rfl, rfl, rfl, rfl⟩ := exists_instr_of_fields hop h1 h2 h3
  have hdecode : decode w = checkWriteSlots i := decode_of_fields ⟨hfield, fun k => by cases k <;> assumption⟩
  have hbad : ∀ k, i.role k = .write → (i.mode k).digit = 1 → decode w = .error (.invalidWriteMode k) :=
    fun k hrole hd => hdecode.trans
      (checkWriteSlots_of_bad (Instr.badWriteSlot_eq_some_iff.mpr ⟨hrole, Mode.digit_eq_one_iff.mp hd⟩))
  refine ⟨fun hop3 => hbad .p3 (Instr.role_eq_write_iff.mpr (.inl ⟨rfl, hop3⟩)),
    fun hop1 => hbad .p1 (Instr.role_eq_write_iff.mpr (.inr ⟨rfl, hop1⟩)), fun hp3 hp1 => ?_⟩
  have hwf : i.badWriteSlot = none := by
    refine Option.eq_none_iff_forall_ne_some.mpr fun k hk => ?_
    obtain ⟨hrole, hmode⟩ := Instr.badWriteSlot_eq_some_iff.mp hk
    have hd : (i.mode k).digit = 1 := Mode.digit_eq_one_iff.mpr hmode
    obtain ⟨rfl, hop3⟩ | ⟨rfl, hop1⟩ := Instr.role_eq_write_iff.mp hrole
    · have := hp3 hop3
      omega
    · have := hp1 hop1
      omega
  exact ⟨i, hdecode.trans (checkWriteSlots_of_wellFormed (Instr.wellFormed_iff.mpr hwf)), rfl, rfl, rfl, rfl⟩

/-- Settles O6: closed words, run through the decoder. -/
theorem recordedWordsDecodeAsListed : Obligations.RecordedWordsDecodeAsListed := by
  unfold Obligations.RecordedWordsDecodeAsListed
  decide

end Sys2Proof
end

section
/-! ### What the modes change (R56, R58, R61)

The handlers read a mode through `resolve` alone, so instructions of one opcode whose read slots resolve alike do the
same. -/

namespace Sys2Proof.Machine

variable {s : State} {i j : Instr} {m1 m2 m1' m2' : Mode}

theorem resolveTwo_congr (h1 : resolve s .p1 m1 = resolve s .p1 m1') (h2 : resolve s .p2 m2 = resolve s .p2 m2') :
    resolveTwo s m1 m2 = resolveTwo s m1' m2' := by
  simp only [resolveTwo, h1, h2]

theorem computeStore_congr {f : Config → Int → Int → Except FaultCause Int}
    (h : resolveTwo s m1 m2 = resolveTwo s m1' m2') : computeStore f m1 m2 s = computeStore f m1' m2' s := by
  simp only [computeStore, h]

theorem jumpWhen_congr {test : Int → Bool} (h : resolveTwo s m1 m2 = resolveTwo s m1' m2') :
    jumpWhen test m1 m2 s = jumpWhen test m1' m2' s := by
  simp only [jumpWhen, h]

theorem execPrint_congr (h : resolve s .p1 m1 = resolve s .p1 m1') : execPrint m1 s = execPrint m1' s := by
  simp only [execPrint, h]

theorem exec_congr_of_resolve (hop : i.opcode = j.opcode)
    (h : ∀ k, i.role k = .read → resolve s k (i.mode k) = resolve s k (j.mode k)) : exec i s = exec j s := by
  rw [Instr.eq_withModes_of_opcode_eq hop]
  cases i with
  | add m1 m2 m3 | mul m1 m2 m3 | lt m1 m2 m3 | eq m1 m2 m3 =>
    exact congrArg (conclude s) (computeStore_congr (resolveTwo_congr (h .p1 rfl) (h .p2 rfl)))
  | jnz m1 m2 m3 | jz m1 m2 m3 =>
    exact congrArg (conclude s) (jumpWhen_congr (resolveTwo_congr (h .p1 rfl) (h .p2 rfl)))
  | print m1 m2 m3 => exact execPrint_congr (h .p1 rfl)
  | read m1 m2 m3 | halt m1 m2 m3 => rfl

/-- Settles O4: the first bad digit in slot order decides; and modes act through `resolve` alone. -/
theorem allModeDigitsAreExaminedWhateverTheOpcode : Obligations.AllModeDigitsAreExaminedWhateverTheOpcode := by
  refine ⟨fun w op d1 d2 d3 rest hw hr hop h1 h1' h2 h2' h3 h3' => ?_, by decide, by decide, fun i j s hop h =>
    exec_congr_of_resolve hop fun k hk => by rw [h k hk]⟩
  obtain ⟨hfield, rfl, rfl, rfl⟩ := fields_of_decimal hw hr (by omega) ⟨h1, h1'⟩ ⟨h2, h2'⟩ ⟨h3, h3'⟩
  have hknown : KnownOpcode (opcodeField w) := hfield ▸ hop
  have hok : ∀ k, 0 ≤ modeDigit k w → modeDigit k w ≤ 1 → ∃ m, decodeMode k w = .ok m := fun k hlow hhigh => by
    obtain ⟨m, hm⟩ := exists_mode_of_digit (d := modeDigit k w) (by omega)
    exact ⟨m, decodeMode_ok_iff.mpr hm.symm⟩
  refine ⟨fun hbad => decode_of_mode_error_p1 hknown (decodeMode_of_two_le hbad), fun hg1 hbad => ?_,
    fun hg1 hg2 hbad => ?_⟩
  · obtain ⟨m1, hm1⟩ := hok .p1 h1 hg1
    exact decode_of_mode_error_p2 hknown hm1 (decodeMode_of_two_le hbad)
  · obtain ⟨m1, hm1⟩ := hok .p1 h1 hg1
    obtain ⟨m2, hm2⟩ := hok .p2 h2 hg2
    exact decode_of_mode_error_p3 hknown hm1 hm2 (decodeMode_of_two_le hbad)

/-- Settles O56: a decoded word has its instruction's opcode, and the opcode fixes all but the modes. -/
theorem modesChangeOnlyHowAReadSlotIsResolved : Obligations.ModesChangeOnlyHowAReadSlotIsResolved := by
  have hopcode : ∀ (w : Int) (i : Instr), decode w = .ok i → i.opcode = opcodeField w := fun w i h =>
    let ⟨⟨hop, _⟩, _⟩ := decode_ok_iff.mp h
    hop.symm
  refine ⟨hopcode, fun w w' i j hi hj hfield => ?_, fun i j s => exec_congr_of_resolve⟩
  have hop : i.opcode = j.opcode := (hopcode w i hi).trans (hfield.trans (hopcode w' j hj).symm)
  rw [Instr.eq_withModes_of_opcode_eq hop]
  exact ⟨(i.withModes_length _ _ _).symm, fun k => (i.withModes_role _ _ _ k).symm⟩

end Sys2Proof.Machine
end

section
/-! ### Fetch, decode and operands in a step (R57, R62, R63, R65) -/

namespace Sys2Proof.Machine

variable {s : State} {i : Instr}

/-- Settles O7: fetch and decode give that instruction, and `step_of_instrAt` runs it. -/
theorem stepRunsTheDecodedInstruction : Obligations.StepRunsTheDecodedInstruction := fun _ w _ hs hw hd =>
  step_of_instrAt hs (instrAt_eq_some_iff.mpr (fetchDecode_ok_iff.mpr ⟨w, hw, hd⟩))

/-- In RUNNING, a word that is no instruction raises the fault its decoding names (R57, R67). -/
theorem step_of_decode_error {w : Int} {d : DecodeFault} (hs : s.status = .running) (hw : cellAt s.mem s.ip = some w)
    (hd : decode w = .error d) : step s = .next (s.passControl.faultedBy (causeOfDecode d)) :=
  step_of_fetchDecode_error hs (fetchDecode_error_iff.mpr (.inr ⟨w, d, hw, hd, rfl⟩))

/-- Settles O8: the fetch finds no cell, or the decoder names its fault. -/
theorem fetchAndDecodeFaultsAreTaken : Obligations.FetchAndDecodeFaultsAreTaken := by
  intro s hs
  exact ⟨fun hip => step_of_ip_not_valid hs (not_valid_iff.mpr hip), fun _ _ _ => step_of_decode_error hs,
    fun _ _ _ => step_of_decode_error hs, fun _ _ => step_of_decode_error hs⟩

/-- Settles O9: the mode check is `decodeMode_ok_iff`, the operand `resolve_ok_iff`. -/
theorem modeDigitsSelectAddressOrValue : Obligations.ModeDigitsSelectAddressOrValue := by
  refine ⟨fun k w => ⟨fun h => decodeMode_ok_iff.mpr h, fun h => decodeMode_ok_iff.mpr h,
    fun h _ => decodeMode_of_two_le h⟩, fun s k raw hraw => ⟨fun v hv => ?_, ?_⟩⟩
  · rw [resolve_ok_iff, operandAt, hraw]
    exact hv
  · rw [resolve_ok_iff, operandAt, hraw]
    rfl

/-- Settles O10: a slot answers OutOfBounds of the first of its accesses that finds no cell. -/
theorem slotsFaultOutsideTheTape : Obligations.SlotsFaultOutsideTheTape := by
  refine fun s k => ⟨fun hnone => ⟨fun m => ?_, target_error_iff.mpr ⟨hnone, rfl⟩⟩, fun raw hraw =>
    ⟨target_ok_iff.mpr hraw, fun hcell => ?_⟩⟩
  · exact resolve_error_iff.mpr ⟨_, by simp [operandFaultAt, hnone], rfl⟩
  · exact resolve_error_iff.mpr ⟨_, by simp [operandFaultAt, hraw, hcell], rfl⟩

/-- The jumps are `jumpWhen` with one test or the other (R80, R81). -/
theorem exec_of_jump {m1 m2 m3 : Mode} (h : i ∈ [Instr.jnz m1 m2 m3, Instr.jz m1 m2 m3]) (s : State) :
    ∃ test, exec i s = conclude s (jumpWhen test m1 m2 s) := by
  simp only [List.mem_cons, List.not_mem_nil, or_false] at h
  rcases h with rfl | rfl
  exacts [⟨fun c => !isZero c, rfl⟩, ⟨isZero, rfl⟩]

/-- Settles O21: whatever its test, a jump answers the fault of its two operands first. -/
theorem jumpsResolveBothSlotsBeforeBranching : Obligations.JumpsResolveBothSlotsBeforeBranching := by
  intro s m1 m2 m3 i hi
  obtain ⟨test, hexec⟩ := exec_of_jump hi s
  have hfault : ∀ {x}, resolveTwo s m1 m2 = .error (.outOfBounds x .read) →
      exec i s = .next (s.faultedBy (.outOfBounds x .read)) := fun h =>
    hexec.trans (conclude_of_error (jumpWhen_error_iff.mpr h))
  exact ⟨fun x hx => hfault (resolveTwo_error_iff.mpr (.inl ⟨x, hx, rfl⟩)),
    fun c x hc hx => hfault (resolveTwo_error_iff.mpr (.inr ⟨⟨c, hc⟩, x, hx, rfl⟩))⟩

end Sys2Proof.Machine
end

section
/-! ### Add, Multiply and the frame of the three-operand instructions (R72 to R74, R83, R84, R91)

All four are `computeStore` with one operation or another; Add and Multiply pass `fit` their exact result. -/

namespace Sys2Proof.Machine

variable {s : State} {a b t r : Int} {m1 m2 : Mode} {f : Config → Int → Int → Except FaultCause Int}

/-- `MemWrite(t, 1, r)` and `ip <- n` together, field by field (R9). -/
theorem State.storeCell_loadIp_of_valid (hv : s.mem.valid t = true) (r n : Int) :
    (s.storeCell t r).loadIp n = { s with mem := s.mem.set t.toNat r, ip := n } := by
  simp only [State.loadIp, State.storeCell, setCell, if_pos hv]

section
variable (h1 : operandAt s .p1 m1 = some a) (h2 : operandAt s .p2 m2 = some b) (ht : targetAt s .p3 = some t)
include h1 h2 ht

theorem computeStore_sets_result (hr : f s.cfg a b = .ok r) (hv : s.mem.valid t = true) :
    conclude s (computeStore f m1 m2 s) = .next { s with mem := s.mem.set t.toNat r, ip := s.ip + 4 } := by
  rw [computeStore_of_result h1 h2 ht hr hv, State.storeCell_loadIp_of_valid hv]

/-- The operation's own fault comes before the write, so whatever the target (R90, D9). -/
theorem computeStore_of_result_error {c : FaultCause} (hr : f s.cfg a b = .error c) :
    conclude s (computeStore f m1 m2 s) = .next (s.faultedBy c) :=
  conclude_of_error (computeStore_error_iff.mpr
    (.inr ⟨a, b, resolveTwo_ok_iff.mpr ⟨h1, h2⟩, .inr ⟨t, target_ok_iff.mpr ht, .inl hr⟩⟩))

/-- R72 with its three cases: the exact result x is a word, or is wrapped, or is the detail of an Overflow. -/
theorem computeStore_of_fit {x : Int} (hfit : f s.cfg a b = fit s.cfg x) :
    (IsWord s.cfg.wordBits x → s.mem.valid t = true →
      conclude s (computeStore f m1 m2 s) = .next { s with mem := s.mem.set t.toNat x, ip := s.ip + 4 }) ∧
    (¬ IsWord s.cfg.wordBits x → s.cfg.overflow = .wrap → s.mem.valid t = true → s.cfg.Ok →
      ∃ r, IsWord s.cfg.wordBits r ∧ (2 ^ s.cfg.wordBits : Int) ∣ r - x ∧
        conclude s (computeStore f m1 m2 s) = .next { s with mem := s.mem.set t.toNat r, ip := s.ip + 4 }) ∧
    (¬ IsWord s.cfg.wordBits x → s.cfg.overflow = .fault →
      conclude s (computeStore f m1 m2 s) = .next (s.faultedBy (.overflow x))) := by
  refine ⟨fun hx hv => ?_, fun hx hp hv hc => ?_, fun hx hp => ?_⟩
  · exact computeStore_sets_result h1 h2 ht (hfit.trans (fit_of_isWord hx)) hv
  · have hW : 1 ≤ s.cfg.wordBits := one_le_two.trans hc
    exact ⟨wrapW s.cfg.wordBits x, wrapW_isWord hW x, two_pow_dvd_wrapW_sub hW x,
      computeStore_sets_result h1 h2 ht (hfit.trans (fit_of_wrap hx hp)) hv⟩
  · exact computeStore_of_result_error h1 h2 ht (hfit.trans (fit_of_fault hx hp))

end

/-- Settles O13: Add is `computeStore` with `fit` of the sum. -/
theorem addStoresTheSum : Obligations.AddStoresTheSum := fun _ _ _ _ _ _ h1 h2 ht =>
  computeStore_of_fit (f := aluAdd) h1 h2 ht rfl

/-- Settles O14: Multiply is `computeStore` with `fit` of the product. -/
theorem mulStoresTheProduct : Obligations.MulStoresTheProduct := fun _ _ _ _ _ _ h1 h2 ht =>
  computeStore_of_fit (f := aluMul) h1 h2 ht rfl

/-- Add, Multiply, IsLessThan and IsEqual are `computeStore` with their own operation (R73, R74, R83, R84). -/
theorem exec_of_threeOperand {i : Instr} {m3 : Mode}
    (h : i ∈ [Instr.add m1 m2 m3, .mul m1 m2 m3, .lt m1 m2 m3, .eq m1 m2 m3]) (s : State) :
    ∃ f, exec i s = conclude s (computeStore f m1 m2 s) := by
  simp only [List.mem_cons, List.not_mem_nil, or_false] at h
  rcases h with rfl | rfl | rfl | rfl
  exacts [⟨aluAdd, rfl⟩, ⟨aluMul, rfl⟩, ⟨aluLt, rfl⟩, ⟨aluEq, rfl⟩]

/-- Settles O18: whatever its operation, a three-operand instruction takes a fault or sets its target cell and loads
the latch. -/
theorem threeOperandInstructionsChangeOnlyTheirTarget :
    Obligations.ThreeOperandInstructionsChangeOnlyTheirTarget := by
  intro s s' m1 m2 i hi h
  obtain ⟨f, hexec⟩ := exec_of_threeOperand hi s
  rcases computeStore_cases (hexec ▸ h) with ⟨c, -, rfl⟩ | ⟨a, b, t, r, -, -, ht, -, -, rfl⟩
  · exact ⟨fun _ _ => rfl, rfl, rfl, rfl, rfl, rfl, rfl, rfl, rfl, .inl ⟨c, rfl⟩⟩
  · have hother : ∀ x, targetAt s .p3 ≠ some x → cellAt (setCell s.mem t r) x = cellAt s.mem x := fun x hx =>
      cellAt_setCell_other fun hxt => hx (hxt ▸ ht)
    exact ⟨hother, length_setCell, rfl, rfl, rfl, rfl, rfl, rfl, rfl, .inr ⟨rfl, rfl, rfl⟩⟩

end Sys2Proof.Machine
end

section
/-! ### Read (R75, R76)

What one poll of a Read leaves, field by field, for each thing the source can answer. The step that starts a Read with a
valid target and the step of one that waits are both that poll; an invalid target goes through the draw. -/

namespace Sys2Proof.Machine

variable {s : State} {t v : Int} {l : Line} {es : List InputEvent}

theorem InputSource.poll_of_endOfInput {src : InputSource} (h : src.events = []) (hr : src.rest = .endOfInput) :
    src.poll = (.endOfInput, src) := by
  cases src
  cases h
  cases hr
  exact InputSource.poll_endOfInput

/-- The state after the source has given a line. -/
def State.afterLine (s : State) (l : Line) (es : List InputEvent) : State :=
  { s with input := { events := es, rest := s.input.rest }, consumed := s.consumed ++ [l] }

theorem awaitInput_of_endOfInput (hev : s.input.events = []) (hrest : s.input.rest = .endOfInput) :
    awaitInput t s = s.faultedBy (.badInput .endOfInput) := by
  unfold awaitInput
  rw [InputSource.poll_of_endOfInput hev hrest]
  rfl

theorem awaitInput_of_line_event (hev : s.input.events = .line l :: es) :
    awaitInput t s = finishRead t l (s.afterLine l es) :=
  awaitInput_of_line (InputSource.poll_of_line hev)

theorem awaitInput_of_malformed (hev : s.input.events = .line l :: es) (hp : parseWord s.cfg.wordBits l = none) :
    awaitInput t s = (s.afterLine l es).faultedBy (.badInput .malformed) :=
  (awaitInput_of_line_event hev).trans (finishRead_of_malformed hp)

theorem awaitInput_of_not_valid (hev : s.input.events = .line l :: es) (hp : parseWord s.cfg.wordBits l = some v)
    (hv : s.mem.valid t = false) : awaitInput t s = (s.afterLine l es).faultedBy (.outOfBounds t .write) :=
  (awaitInput_of_line_event hev).trans (finishRead_of_not_valid hp hv)

theorem awaitInput_of_valid (hev : s.input.events = .line l :: es) (hp : parseWord s.cfg.wordBits l = some v)
    (hv : s.mem.valid t = true) :
    awaitInput t s = { s.afterLine l es with mem := s.mem.set t.toNat v, ip := s.ip + 2, status := .running } := by
  rw [awaitInput_of_line_event hev, finishRead_of_valid (s := s.afterLine l es) hp hv,
    State.storeCell_loadIp_of_valid (s := s.afterLine l es) hv]
  rfl

/-- Settles O25: at once or after a wait, the poll that gives the line completes the Read. -/
theorem readStoresTheWordOnTheLine : Obligations.ReadStoresTheWordOnTheLine := by
  intro s t v l es hv hev hp
  constructor
  · intro m2 m3 ht
    exact (execRead_of_valid_target ht hv).trans (congrArg _ (awaitInput_of_valid hev hp hv))
  · intro hs
    exact (step_of_waitIn hs).trans (congrArg _ (awaitInput_of_valid (s := s.passControl) hev hp hv))

/-- Settles O26: without a target there is no poll; with a valid one the poll decides. -/
theorem readFaultsWithoutStoring : Obligations.ReadFaultsWithoutStoring := by
  intro s m2 m3
  refine ⟨execRead_of_no_target, fun t ht hv => ?_⟩
  have hpoll : exec (.read .positional m2 m3) s = .next (awaitInput t s) := execRead_of_valid_target ht hv
  exact ⟨fun hev hrest => hpoll.trans (congrArg _ (awaitInput_of_endOfInput hev hrest)),
    fun l es hev hp => hpoll.trans (congrArg _ (awaitInput_of_malformed hev hp))⟩

/-- Settles O27: the step is the poll, and the target is checked after the line alone. -/
theorem waitingReadFaultsOnItsAnswer : Obligations.WaitingReadFaultsOnItsAnswer := by
  intro s t hs
  have hpoll : step s = .next (awaitInput t s.passControl) := step_of_waitIn hs
  exact ⟨fun hev hrest => hpoll.trans (congrArg _ (awaitInput_of_endOfInput (s := s.passControl) hev hrest)),
    fun l es hev hp => hpoll.trans (congrArg _ (awaitInput_of_malformed (s := s.passControl) hev hp)),
    fun l es v hev hp hv => hpoll.trans (congrArg _ (awaitInput_of_not_valid (s := s.passControl) hev hp hv))⟩

/-- Settles O28: `startRead_cases` gives the two sides of the draw, and on the side of the request the poll decides. -/
theorem readWithAnInvalidTargetFaultsEitherWay : Obligations.ReadWithAnInvalidTargetFaultsEitherWay := by
  rintro s _ m2 m3 t ht hv rfl
  have hstart : exec (.read .positional m2 m3) s = .next (startRead t s) := execRead_of_target ht
  rcases startRead_cases t s with ⟨hvalid, -⟩ | ⟨-, hrequest⟩ | ⟨-, hfault⟩
  · rw [hv] at hvalid
    cases hvalid
  · right
    rw [hstart, hrequest]
    exact ⟨fun hev hrest => congrArg _ (awaitInput_of_endOfInput (s := s.countDraw) hev hrest),
      fun hev hrest => congrArg _ (awaitInput_of_notYet (s := s.countDraw) (InputSource.poll_of_silent hev hrest)),
      fun es hev => congrArg _ (awaitInput_of_notYet (s := s.countDraw) (InputSource.poll_of_notYet hev)),
      fun l es hev hp => congrArg _ (awaitInput_of_malformed (s := s.countDraw) hev hp),
      fun l es v hev hp => congrArg _ (awaitInput_of_not_valid (s := s.countDraw) hev hp hv)⟩
  · left
    rw [hstart, hfault]
    rfl

end Sys2Proof.Machine
end

section
/-! ### Print (R77, R78) -/

namespace Sys2Proof.Machine

variable {s : State} {v : Int} {k : Sink}

/-- The sink's answer `a` at the next poll, from its list or from what follows that, leaves the sink `k` (R32). -/
theorem Sink.poll_of_answer {snk : Sink} {a : SinkAnswer}
    (h : (∃ as, snk.answers = a :: as ∧ k = { answers := as, rest := snk.rest }) ∨
      snk.answers = [] ∧ snk.rest = a ∧ k = snk) : snk.poll = (a, k) := by
  rcases h with ⟨as, hans, rfl⟩ | ⟨hans, rfl, rfl⟩
  · exact Sink.poll_of_cons hans
  · unfold Sink.poll
    rw [hans]

theorem awaitSink_of_accepted (h : s.sink.poll = (.accepted, k)) :
    awaitSink v s =
      { s with ip := s.ip + 2, status := .running, sink := k, output := s.output ++ [printLine v] } := by
  unfold awaitSink
  rw [h]
  rfl

theorem awaitSink_of_failed (h : s.sink.poll = (.failed, k)) :
    awaitSink v s = { s with sink := k }.faultedBy .outputFailed := by
  unfold awaitSink
  rw [h]
  rfl

/-- Settles O30: at once or after a wait, the poll that is accepted completes the Print. -/
theorem printDeliversItsLine : Obligations.PrintDeliversItsLine := by
  intro s v k hk
  have hpoll : s.sink.poll = (.accepted, k) := Sink.poll_of_answer hk
  exact ⟨fun m1 m2 m3 hv => (execPrint_of_operand hv).trans (congrArg _ (awaitSink_of_accepted hpoll)),
    fun hs => (step_of_waitOut hs).trans (congrArg _ (awaitSink_of_accepted (s := s.passControl) hpoll))⟩

/-- Settles O31: without an operand there is no poll; with one, a poll that fails ends the Print. -/
theorem printFaultsWithoutALine : Obligations.PrintFaultsWithoutALine := by
  refine ⟨fun s m1 m2 m3 x hx => execPrint_of_no_operand hx, fun s v k hk => ?_⟩
  have hpoll : s.sink.poll = (.failed, k) := Sink.poll_of_answer hk
  exact ⟨fun m1 m2 m3 hv => (execPrint_of_operand hv).trans (congrArg _ (awaitSink_of_failed hpoll)),
    fun hs => (step_of_waitOut hs).trans (congrArg _ (awaitSink_of_failed (s := s.passControl) hpoll))⟩

end Sys2Proof.Machine
end

section
/-! ### Who touches the ports (R75, R77, R79) -/

namespace Sys2Proof.Machine

variable {s s' : State} {t v : Int} {m1 m2 : Mode} {i : Instr}

/-- The input port is left alone, and no wait for it begins (R79). -/
structure State.KeepsInput (s s' : State) : Prop where
  input : s'.input = s.input
  consumed : s'.consumed = s.consumed
  no_wait : ∀ t, s'.status = .waitIn t → s.status = .waitIn t

/-- The output port is left alone, and no wait for it begins (R79). -/
structure State.KeepsOutput (s s' : State) : Prop where
  sink : s'.sink = s.sink
  output : s'.output = s.output
  no_wait : ∀ v, s'.status = .waitOut v → s.status = .waitOut v

theorem raise_keepsInput (c : FaultCause) (s : State) : s.KeepsInput (raise c s) := ⟨rfl, rfl, nofun⟩

theorem raise_keepsOutput (c : FaultCause) (s : State) : s.KeepsOutput (raise c s) := ⟨rfl, rfl, nofun⟩

theorem computeStore_keepsPorts {f : Config → Int → Int → Except FaultCause Int}
    (h : conclude s (computeStore f m1 m2 s) = .next s') : s.KeepsInput s' ∧ s.KeepsOutput s' := by
  rcases computeStore_cases h with ⟨c, -, rfl⟩ | ⟨a, b, t, r, -, -, -, -, -, rfl⟩
  · exact ⟨raise_keepsInput c s, raise_keepsOutput c s⟩
  · exact ⟨⟨rfl, rfl, fun _ h => h⟩, ⟨rfl, rfl, fun _ h => h⟩⟩

theorem jumpWhen_keepsPorts {test : Int → Bool} (h : conclude s (jumpWhen test m1 m2 s) = .next s') :
    s.KeepsInput s' ∧ s.KeepsOutput s' := by
  rcases jumpWhen_cases h with ⟨c, -, rfl⟩ | ⟨c, t, -, -, rfl⟩
  · exact ⟨raise_keepsInput c s, raise_keepsOutput c s⟩
  · exact ⟨⟨rfl, rfl, fun _ h => h⟩, ⟨rfl, rfl, fun _ h => h⟩⟩

theorem finishRead_keepsOutput (t : Int) (l : Line) (s : State) : s.KeepsOutput (finishRead t l s) := by
  rcases finishRead_cases t l s with ⟨-, h⟩ | ⟨v, -, -, h⟩ | ⟨v, -, -, h⟩ <;> rw [h] <;> exact ⟨rfl, rfl, nofun⟩

theorem awaitInput_keepsOutput (t : Int) (s : State) : s.KeepsOutput (awaitInput t s) := by
  obtain ⟨ans, src, -, ⟨-, h⟩ | ⟨-, h⟩ | ⟨l, -, h⟩⟩ := awaitInput_cases t s <;> rw [h]
  · exact ⟨rfl, rfl, nofun⟩
  · exact ⟨rfl, rfl, nofun⟩
  · obtain ⟨hsink, hout, hwait⟩ := finishRead_keepsOutput t l ((s.setInput src).consume l)
    exact ⟨hsink, hout, hwait⟩

theorem startRead_keepsOutput (t : Int) (s : State) : s.KeepsOutput (startRead t s) := by
  rcases startRead_cases t s with ⟨-, h⟩ | ⟨-, h⟩ | ⟨-, h⟩ <;> rw [h]
  · exact awaitInput_keepsOutput t s
  · obtain ⟨hsink, hout, hwait⟩ := awaitInput_keepsOutput t s.countDraw
    exact ⟨hsink, hout, hwait⟩
  · exact ⟨rfl, rfl, nofun⟩

theorem execRead_keepsOutput (h : execRead s = .next s') : s.KeepsOutput s' := by
  rcases execRead_cases h with ⟨-, rfl⟩ | ⟨t, -, rfl⟩
  · exact raise_keepsOutput _ s
  · exact startRead_keepsOutput t s

theorem awaitSink_keepsInput (v : Int) (s : State) : s.KeepsInput (awaitSink v s) := by
  obtain ⟨ans, k, -, ⟨-, h⟩ | ⟨-, h⟩ | ⟨-, h⟩⟩ := awaitSink_cases v s <;> rw [h] <;> exact ⟨rfl, rfl, nofun⟩

theorem execPrint_keepsInput (h : execPrint m1 s = .next s') : s.KeepsInput s' := by
  rcases execPrint_cases h with ⟨x, -, rfl⟩ | ⟨v, -, rfl⟩
  · exact raise_keepsInput _ s
  · exact awaitSink_keepsInput v s

theorem exec_keepsInput (hi : i.opcode ≠ 3) (h : exec i s = .next s') : s.KeepsInput s' := by
  cases i with
  | add m1 m2 m3 | mul m1 m2 m3 | lt m1 m2 m3 | eq m1 m2 m3 => exact (computeStore_keepsPorts h).1
  | jnz m1 m2 m3 | jz m1 m2 m3 => exact (jumpWhen_keepsPorts h).1
  | read m1 m2 m3 => exact absurd rfl hi
  | print m1 m2 m3 => exact execPrint_keepsInput h
  | halt m1 m2 m3 =>
    cases h
    exact ⟨rfl, rfl, nofun⟩

theorem exec_keepsOutput (hi : i.opcode ≠ 4) (h : exec i s = .next s') : s.KeepsOutput s' := by
  cases i with
  | add m1 m2 m3 | mul m1 m2 m3 | lt m1 m2 m3 | eq m1 m2 m3 => exact (computeStore_keepsPorts h).2
  | jnz m1 m2 m3 | jz m1 m2 m3 => exact (jumpWhen_keepsPorts h).2
  | read m1 m2 m3 => exact execRead_keepsOutput h
  | print m1 m2 m3 => exact absurd rfl hi
  | halt m1 m2 m3 =>
    cases h
    exact ⟨rfl, rfl, nofun⟩

theorem step_waitIn_of_notYet {src : InputSource} (hs : s.status = .waitIn t) (h : s.input.poll = (.notYet, src)) :
    step s = .next (s.passControl.setInput src) := by
  rw [step_of_waitIn hs, awaitInput_of_notYet (s := s.passControl) h]
  exact congrArg _ (State.setStatus_of_eq hs)

theorem step_waitOut_of_notYet {snk : Sink} (hs : s.status = .waitOut v) (h : s.sink.poll = (.notYet, snk)) :
    step s = .next (s.passControl.setSink snk) := by
  rw [step_of_waitOut hs, awaitSink_of_notYet (s := s.passControl) h]
  exact congrArg _ (State.setStatus_of_eq hs)

/-- Settles O33: no other instruction has an operation on the port; a poll without an answer keeps the wait. -/
theorem onlyReadAndPrintTouchThePortsOrWait : Obligations.OnlyReadAndPrintTouchThePortsOrWait := by
  refine ⟨fun i s s' h => ⟨fun hi => ?_, fun hi => ?_⟩, fun s t hs => ⟨fun es hev => ?_, fun hev hrest => ?_⟩,
    fun s v hs => ⟨fun as hans => ?_, fun hans hrest => ?_⟩⟩
  · obtain ⟨hinput, hconsumed, hwait⟩ := exec_keepsInput hi h
    exact ⟨hinput, hconsumed, hwait⟩
  · obtain ⟨hsink, houtput, hwait⟩ := exec_keepsOutput hi h
    exact ⟨hsink, houtput, hwait⟩
  · exact step_waitIn_of_notYet hs (InputSource.poll_of_notYet hev)
  · exact step_waitIn_of_notYet hs (InputSource.poll_of_silent hev hrest)
  · exact step_waitOut_of_notYet hs (Sink.poll_of_cons hans)
  · exact step_waitOut_of_notYet hs (Sink.poll_of_silent hans hrest)

/-- An instruction leaves the control inputs alone. -/
theorem exec_control (h : exec i s = .next s') : s'.control = s.control := by
  have hsame : s' = s'.withControl s.control := Host.Outcome.next.inj (h.symm.trans (exec_withControl h s.control))
  calc
    s'.control = (s'.withControl s.control).control := congrArg State.control hsame
    _ = s.control := rfl

theorem execRead_consumed (h : execRead s = .next s') :
    s'.consumed = s.consumed ∨ ∃ l, s'.consumed = s.consumed ++ [l] := by
  obtain ⟨-, ⟨ls, hls, hlen⟩, -⟩ := exec_growsTo (i := .read .positional .positional .positional) h
  match ls, hlen with
  | [], _ => exact .inl (by simpa using hls)
  | [l], _ => exact .inr ⟨l, hls⟩

theorem cellAt_execRead_other {a : Int} (ha : targetAt s .p1 ≠ some a) (h : execRead s = .next s') :
    cellAt s'.mem a = cellAt s.mem a := by
  rcases execRead_cases h with ⟨-, rfl⟩ | ⟨t, ht, rfl⟩
  · rfl
  · rcases startRead_storesOnlyAt t s with hmem | ⟨v, hmem⟩ <;> rw [hmem]
    exact cellAt_setCell_other fun hat => ha (hat ▸ ht)

/-- What a Print leaves, beside the input: the tape and the draws, and the output but for its line. -/
theorem execPrint_frame (h : execPrint m1 s = .next s') :
    s'.mem = s.mem ∧ s'.draws = s.draws ∧
      (s'.output = s.output ∨ ∃ v, operandAt s .p1 m1 = some v ∧ s'.output = s.output ++ [printLine v]) := by
  rcases execPrint_cases h with ⟨x, -, rfl⟩ | ⟨v, hv, rfl⟩
  · exact ⟨rfl, rfl, .inl rfl⟩
  · obtain ⟨ans, k, -, ⟨-, h⟩ | ⟨-, h⟩ | ⟨-, h⟩⟩ := awaitSink_cases v s <;> rw [h]
    · exact ⟨rfl, rfl, .inl rfl⟩
    · exact ⟨rfl, rfl, .inl rfl⟩
    · exact ⟨rfl, rfl, .inr ⟨v, hv, rfl⟩⟩

/-- Settles O29: each port by O33's lemmas, the tape by the one cell a Read sets, and none by a Print. -/
theorem readAndPrintChangeOnlyTheirOwn : Obligations.ReadAndPrintChangeOnlyTheirOwn := by
  refine fun s s' m1 m2 m3 => ⟨fun h => ?_, fun h => ?_⟩
  · obtain ⟨hsink, houtput, -⟩ := execRead_keepsOutput h
    obtain ⟨hcfg, -, -⟩ := exec_growsTo h
    exact ⟨fun a ha => cellAt_execRead_other ha h, exec_mem_length h, hsink, houtput, hcfg, exec_control h,
      execRead_consumed h⟩
  · obtain ⟨hinput, hconsumed, -⟩ := execPrint_keepsInput h
    obtain ⟨hcfg, -, -⟩ := exec_growsTo h
    obtain ⟨hmem, hdraws, hline⟩ := execPrint_frame h
    exact ⟨fun a => by rw [hmem], by rw [hmem], hinput, hconsumed, hcfg, exec_control h, hdraws, hline⟩

end Sys2Proof.Machine
end

section
/-! ### Input lines: the grammar (R76, D12) -/

namespace Sys2Proof.Machine

variable {W : Nat} {l ds : Line} {n d acc : Nat} {v : Int} {c : Char}

/-- The ASCII decimal digits (R76). -/
abbrev asciiDigits : List Char := ['0', '1', '2', '3', '4', '5', '6', '7', '8', '9']

/-- One or more ASCII digits and nothing else, that write n. -/
structure IsNumeral (ds : Line) (n : Nat) : Prop where
  nonempty : ds ≠ []
  digits : ∀ c ∈ ds, c ∈ asciiDigits
  value : ds.foldl (fun n c => 10 * n + (c.toNat - 48)) 0 = n

theorem digitChar_mem_asciiDigits : ∀ d < 10, digitChar d ∈ asciiDigits := by decide

theorem toNat_digitChar : ∀ d < 10, (digitChar d).toNat - 48 = d := by decide

theorem toNat_of_mem_asciiDigits : ∀ c ∈ asciiDigits, 48 ≤ c.toNat ∧ c.toNat ≤ 57 := by simp

theorem digitValue_of_mem (hc : c ∈ asciiDigits) : digitValue c = some (c.toNat - 48) :=
  if_pos (toNat_of_mem_asciiDigits c hc)

/-- The two spellings of an ASCII digit, by its code and by enumeration, agree. -/
theorem digitValue_eq_some_iff : digitValue c = some d ↔ c ∈ asciiDigits ∧ d = c.toNat - 48 := by
  constructor
  · intro h
    unfold digitValue at h
    split at h
    · next hrange =>
      cases h
      have hc : digitChar (c.toNat - 48) = c := by
        rw [digitChar, Nat.add_sub_cancel' hrange.1, Char.ofNat_toNat]
      exact ⟨hc ▸ digitChar_mem_asciiDigits (c.toNat - 48) (by omega), rfl⟩
    · cases h
  · rintro ⟨hc, rfl⟩
    exact digitValue_of_mem hc

theorem digitsValue_cons : digitsValue (c :: l) acc = (digitValue c).bind fun d => digitsValue l (10 * acc + d) := by
  rw [digitsValue]
  cases digitValue c <;> rfl

theorem digitsValue_eq_some_iff :
    digitsValue l acc = some n ↔
      (∀ c ∈ l, c ∈ asciiDigits) ∧ l.foldl (fun n c => 10 * n + (c.toNat - 48)) acc = n := by
  induction l generalizing acc with
  | nil => simp [digitsValue]
  | cons c cs ih =>
    rw [digitsValue_cons, Option.bind_eq_some_iff, List.forall_mem_cons, List.foldl_cons]
    constructor
    · rintro ⟨d, hd, hcs⟩
      obtain ⟨hc, rfl⟩ := digitValue_eq_some_iff.mp hd
      obtain ⟨hdigits, hvalue⟩ := ih.mp hcs
      exact ⟨⟨hc, hdigits⟩, hvalue⟩
    · rintro ⟨⟨hc, hdigits⟩, hvalue⟩
      exact ⟨_, digitValue_of_mem hc, ih.mpr ⟨hdigits, hvalue⟩⟩

theorem parseDigits_eq_some_iff : parseDigits l = some n ↔ IsNumeral l n := by
  cases l with
  | nil => exact ⟨nofun, fun h => absurd rfl h.nonempty⟩
  | cons c cs =>
    rw [parseDigits, digitsValue_eq_some_iff]
    exact ⟨fun ⟨hdigits, hvalue⟩ => ⟨by simp, hdigits, hvalue⟩, fun h => ⟨h.digits, h.value⟩⟩

/-- No sign is a digit. -/
theorem IsNumeral.ne_cons_of_not_digit {cs : Line} (h : IsNumeral ds n) (hc : c ∉ asciiDigits) : ds ≠ c :: cs := by
  rintro rfl
  exact hc (h.digits c List.mem_cons_self)

theorem parseInteger_of_unsigned (h : IsNumeral ds n) : parseInteger ds = some (n : Int) := by
  rw [parseInteger.eq_3 ds (fun _ => h.ne_cons_of_not_digit (by decide)) (fun _ => h.ne_cons_of_not_digit (by decide)),
    parseDigits_eq_some_iff.mpr h, Option.map_some]

/-- A sign and the digits behind it denote v (R76): an absent sign or `+` their number, `-` its negative. -/
def IsSignedNumeral (sign ds : Line) (v : Int) : Prop :=
  ∃ n, IsNumeral ds n ∧ ((sign = [] ∨ sign = ['+']) ∧ v = (n : Int) ∨ sign = ['-'] ∧ v = -(n : Int))

theorem parseInteger_eq_some_iff :
    parseInteger l = some v ↔ ∃ sign ds, l = sign ++ ds ∧ IsSignedNumeral sign ds v := by
  constructor
  · intro h
    unfold parseInteger at h
    split at h <;> obtain ⟨n, hn, rfl⟩ := Option.map_eq_some_iff.mp h <;> rw [parseDigits_eq_some_iff] at hn
    · next ds => exact ⟨['-'], ds, rfl, n, hn, .inr ⟨rfl, rfl⟩⟩
    · next ds => exact ⟨['+'], ds, rfl, n, hn, .inl ⟨.inr rfl, rfl⟩⟩
    · exact ⟨[], l, rfl, n, hn, .inl ⟨.inl rfl, rfl⟩⟩
  · rintro ⟨sign, ds, rfl, n, hn, ⟨rfl | rfl, rfl⟩ | ⟨rfl, rfl⟩⟩
    · exact parseInteger_of_unsigned hn
    · exact Option.map_eq_some_iff.mpr ⟨n, parseDigits_eq_some_iff.mpr hn, rfl⟩
    · exact Option.map_eq_some_iff.mpr ⟨n, parseDigits_eq_some_iff.mpr hn, rfl⟩

theorem parseWord_eq_some_iff : parseWord W l = some v ↔ IsWord W v ∧ parseInteger l = some v := by
  unfold parseWord
  cases parseInteger l with
  | none => simp
  | some x =>
    simp only [Option.ite_none_right_eq_some, Option.some.injEq]
    exact ⟨fun ⟨hw, hx⟩ => ⟨hx ▸ hw, hx⟩, fun ⟨hw, hx⟩ => ⟨hx ▸ hw, hx⟩⟩

/-- Settles O37: the parser's answer is an integer written by the grammar, kept where it is a word. -/
theorem aLineDenotesAWordExactlyByTheGrammar : Obligations.ALineDenotesAWordExactlyByTheGrammar := by
  intro W l v
  rw [parseWord_eq_some_iff, parseInteger_eq_some_iff]
  refine and_congr_right fun _ => exists_congr fun sign => exists_congr fun ds => and_congr_right fun _ => ?_
  constructor
  · rintro ⟨n, ⟨hne, hdigits, rfl⟩, hv⟩
    exact ⟨hne, hdigits, hv⟩
  · rintro ⟨hne, hdigits, hv⟩
    exact ⟨_, ⟨hne, hdigits, rfl⟩, hv⟩

end Sys2Proof.Machine
end

section
/-! ### Output lines: the canonical decimal (R78, D13), read back (R76) -/

namespace Sys2Proof.Machine

variable {ds : Line} {n d : Nat}

/-- The numeral of n that has no leading zero, 0 being the single digit 0 (R78). -/
structure IsCanonical (ds : Line) (n : Nat) : Prop extends IsNumeral ds n where
  no_leading_zero : ds.head? = some '0' → ds = ['0']

theorem isCanonical_digitChar (hd : d < 10) : IsCanonical [digitChar d] d where
  nonempty := List.cons_ne_nil _ _
  digits := List.forall_mem_singleton.mpr (digitChar_mem_asciiDigits d hd)
  value := by simp [toNat_digitChar d hd]
  no_leading_zero h := congrArg (fun c => [c]) (Option.some.inj h)

theorem IsNumeral.snoc (h : IsNumeral ds n) (hd : d < 10) : IsNumeral (ds ++ [digitChar d]) (10 * n + d) where
  nonempty := List.append_ne_nil_of_left_ne_nil h.nonempty _
  digits := List.forall_mem_append.mpr ⟨h.digits, List.forall_mem_singleton.mpr (digitChar_mem_asciiDigits d hd)⟩
  value := by simp [h.value, toNat_digitChar d hd]

/-- A leading zero would be that of the digits in front, whose number would then be 0. -/
theorem IsCanonical.snoc (h : IsCanonical ds n) (hn : n ≠ 0) (hd : d < 10) :
    IsCanonical (ds ++ [digitChar d]) (10 * n + d) where
  toIsNumeral := h.toIsNumeral.snoc hd
  no_leading_zero hzero := by
    rw [List.head?_append_of_ne_nil _ h.nonempty] at hzero
    have hds := h.no_leading_zero hzero
    subst hds
    exact absurd h.value.symm hn

theorem digitsOf_isCanonical {fuel : Nat} (h : n < fuel) (acc : Line) :
    ∃ ds, digitsOf fuel n acc = ds ++ acc ∧ IsCanonical ds n := by
  induction fuel generalizing n acc with
  | zero => omega
  | succ fuel ih =>
    rw [digitsOf]
    split
    · next hd => exact ⟨[digitChar n], rfl, isCanonical_digitChar hd⟩
    · next hlarge =>
      obtain ⟨ds, hds, hfront⟩ := ih (n := n / 10) (by omega) (digitChar (n % 10) :: acc)
      have hsnoc := hfront.snoc (by omega) (Nat.mod_lt n (by decide : 0 < 10))
      rw [Nat.div_add_mod] at hsnoc
      exact ⟨ds ++ [digitChar (n % 10)], by simp [hds], hsnoc⟩

theorem renderNat_isCanonical (n : Nat) : IsCanonical (renderNat n) n := by
  obtain ⟨ds, hds, hcan⟩ := digitsOf_isCanonical (Nat.lt_succ_self n) []
  rw [renderNat, hds, List.append_nil]
  exact hcan

theorem renderWord_eq (v : Int) : renderWord v = (if v < 0 then ['-'] else []) ++ renderNat v.natAbs := by
  unfold renderWord
  split <;> rfl

/-- Settles O38: the digits are those of the magnitude. -/
theorem aPrintedLineIsTheCanonicalDecimal : Obligations.APrintedLineIsTheCanonicalDecimal := by
  intro v
  have hcan := renderNat_isCanonical v.natAbs
  exact ⟨renderNat v.natAbs, by rw [printLine, renderWord_eq], hcan.nonempty, hcan.digits, hcan.no_leading_zero,
    hcan.value⟩

theorem parseInteger_renderWord (v : Int) : parseInteger (renderWord v) = some v := by
  have hn : IsNumeral (renderNat v.natAbs) v.natAbs := (renderNat_isCanonical v.natAbs).toIsNumeral
  refine parseInteger_eq_some_iff.mpr ⟨_, _, renderWord_eq v, v.natAbs, hn, ?_⟩
  split
  · exact .inr ⟨rfl, by omega⟩
  · exact .inl ⟨.inl rfl, by omega⟩

/-- Settles O39: what `renderWord` writes is in the grammar and denotes the word. -/
theorem whatPrintWritesReadReadsBack : Obligations.WhatPrintWritesReadReadsBack := fun _ v hw =>
  ⟨renderWord v, rfl, parseWord_eq_some_iff.mpr ⟨hw, parseInteger_renderWord v⟩⟩

end Sys2Proof.Machine
end

section
/-! ### The jumps' branches and their frame (R80, R81, D6)

Both jumps are `jumpWhen`, JumpNZ with the negated zero test and JumpZ with the zero test. -/

namespace Sys2Proof.Machine

variable {s : State} {m1 m2 : Mode} {c t : Int}

theorem isZero_iff : isZero c = true ↔ c = 0 := decide_eq_true_iff

section
variable {test : Int → Bool} (h1 : operandAt s .p1 m1 = some c) (h2 : operandAt s .p2 m2 = some t)
include h1 h2

theorem jumpWhen_of_test (hc : test c = true) :
    conclude s (jumpWhen test m1 m2 s) = .next { s with ip := t } :=
  conclude_of_ok (jumpWhen_ok_iff.mpr ⟨c, t, h1, h2, by rw [if_pos hc]; rfl⟩)

theorem jumpWhen_of_not_test (hc : ¬ test c = true) :
    conclude s (jumpWhen test m1 m2 s) = .next { s with ip := s.ip + 3 } :=
  conclude_of_ok (jumpWhen_ok_iff.mpr ⟨c, t, h1, h2, by rw [if_neg hc]; rfl⟩)

end

/-- The only fault of two read slots is OutOfBounds of a read (R62, R65, log 16). -/
theorem outOfBounds_read_of_resolveTwo_error {e : FaultCause} (h : resolveTwo s m1 m2 = .error e) :
    ∃ x, e = .outOfBounds x .read := by
  rcases resolveTwo_error_iff.mp h with ⟨x, -, he⟩ | ⟨-, x, -, he⟩ <;> exact ⟨x, he⟩

/-- Settles O22: whatever its test, a jump takes the fault of an operand or loads the latch. -/
theorem jumpsChangeOnlyTheInstructionPointer : Obligations.JumpsChangeOnlyTheInstructionPointer := by
  intro s s' m1 m2 m3 i hi h
  obtain ⟨test, hexec⟩ := exec_of_jump hi s
  rcases jumpWhen_cases (hexec ▸ h) with ⟨e, he, rfl⟩ | ⟨c, t, -, -, rfl⟩
  · obtain ⟨x, rfl⟩ := outOfBounds_read_of_resolveTwo_error he
    exact ⟨fun _ => rfl, .inr ⟨x, rfl⟩⟩
  · exact ⟨fun _ => rfl, .inl rfl⟩

/-- Settles O19: JumpNZ tests that its first operand is not zero. -/
theorem jnzLoadsItsTargetWhenNonzero : Obligations.JnzLoadsItsTargetWhenNonzero := fun _ _ _ _ _ _ h1 h2 =>
  ⟨fun hc => execJnz_of_nonzero h1 hc h2,
    fun hc => jumpWhen_of_not_test h1 h2 (by simp [isZero_iff.mpr hc])⟩

/-- Settles O20: JumpZ tests that its first operand is zero. -/
theorem jzLoadsItsTargetWhenZero : Obligations.JzLoadsItsTargetWhenZero := fun _ _ _ _ _ _ h1 h2 =>
  ⟨fun hc => jumpWhen_of_test h1 h2 (isZero_iff.mpr hc),
    fun hc => jumpWhen_of_not_test h1 h2 (mt isZero_iff.mp hc)⟩

end Sys2Proof.Machine
end

section
/-! ### The comparisons' results (R83, R84, D3)

Both are `computeStore` with an operation that cannot fault; its `if` gives the two clauses of each statement. -/

namespace Sys2Proof.Machine

variable {a b : Int}

theorem aluLt_of_lt (c : Config) (h : a < b) : aluLt c a b = .ok 1 := by rw [aluLt_eq, if_pos h]

theorem aluLt_of_le (c : Config) (h : b ≤ a) : aluLt c a b = .ok 0 := by rw [aluLt_eq, if_neg h.not_gt]

theorem aluEq_of_eq (c : Config) (h : a = b) : aluEq c a b = .ok 1 := by rw [aluEq_eq, if_pos h]

theorem aluEq_of_ne (c : Config) (h : a ≠ b) : aluEq c a b = .ok 0 := by rw [aluEq_eq, if_neg h]

/-- Settles O15: IsLessThan is `computeStore` with the signed order of its operands. -/
theorem ltStoresTheSignedComparison : Obligations.LtStoresTheSignedComparison := fun s _ _ _ _ _ h1 h2 ht hv =>
  ⟨fun hlt => computeStore_sets_result h1 h2 ht (aluLt_of_lt s.cfg hlt) hv,
    fun hle => computeStore_sets_result h1 h2 ht (aluLt_of_le s.cfg hle) hv⟩

/-- Settles O16: IsEqual is `computeStore` with the equality of its operands. -/
theorem eqStoresTheEquality : Obligations.EqStoresTheEquality := fun s _ _ _ _ _ h1 h2 ht hv =>
  ⟨fun heq => computeStore_sets_result h1 h2 ht (aluEq_of_eq s.cfg heq) hv,
    fun hne => computeStore_sets_result h1 h2 ht (aluEq_of_ne s.cfg hne) hv⟩

end Sys2Proof.Machine
end

section
/-! ### The end of a run (R85, R86, R93, D20)

Without an `init` among the control inputs a step in HALTED or FAULTED drops the one asserted and does nothing else; a
run of such steps is one use of `core_run_of_chain`. -/

namespace Sys2Proof.Machine

variable {s : State}

theorem mem_control_of_asserted_init {image : List Int} (h : s.asserted = .init image) :
    Control.init image ∈ s.control := by
  cases hc : s.control with
  | nil => simp [State.asserted, hc] at h
  | cons d cs => simp [← h, asserted_cons hc]

theorem step_of_ended (hs : s.status.ended = true) (hno : ∀ image, Control.init image ∉ s.control) :
    step s = .next s.passControl := by
  obtain ⟨hout, hready⟩ := not_inRun_of_ended hs
  rw [step_of_not_inRun hout]
  cases ha : s.asserted with
  | idle => exact stepIdle_idle ha
  | init image => exact absurd (mem_control_of_asserted_init ha) (hno image)
  | run => exact stepIdle_run_of_not_ready ha hready

theorem passControl_withControl_drop (s : State) (k : Nat) :
    (s.withControl (s.control.drop k)).passControl = s.withControl (s.control.drop (k + 1)) := by
  rw [← List.tail_drop]
  rfl

theorem core_run_of_ended (hs : s.status.ended = true) (hno : ∀ image, Control.init image ∉ s.control) (n : Nat) :
    Sys2Proof.core.run n s = .next (s.withControl (s.control.drop n)) := by
  refine core_run_of_chain (F := fun k => s.withControl (s.control.drop k)) fun k _ => ?_
  have hdrop : ∀ image, Control.init image ∉ (s.withControl (s.control.drop k)).control :=
    fun image hmem => hno image (List.mem_of_mem_drop hmem)
  rw [step_of_ended (s := s.withControl (s.control.drop k)) hs hdrop, passControl_withControl_drop]

/-- Settles O48: HALTED is one of the two statuses of `core_run_of_ended`. -/
theorem haltedStaysUntilInit : Obligations.HaltedStaysUntilInit := fun _ hs hno n =>
  core_run_of_ended (congrArg Status.ended hs) hno n

/-- Settles O24: Halt's meaning is `setStatus` alone; `ip` is not loaded. -/
theorem haltSetsHaltedAndNothingElse : Obligations.HaltSetsHaltedAndNothingElse := fun s _ _ _ =>
  show execHalt s = .next (s.setStatus .halted) from rfl

end Sys2Proof.Machine
end

section
/-! ### What a fault leaves (R88 to R93, D9 to D11, D14)

Every fault is taken in a state that differs from the one the step began in by its ports, its draws and the control input
gone by alone; the parts of an instruction that can have asked a port before the fault are the polls of a Read and of a
Print. -/

namespace Sys2Proof.Machine

variable {s s' : State} {t v : Int} {m1 m2 : Mode} {i : Instr} {c : FaultCause}
  {f : Config → Int → Int → Except FaultCause Int}

/-- Settles O40: both are by definition, the entry by `raise_eq_faultedBy` and the codes by the kind of each cause. -/
theorem raisingAFaultFillsTheRecord : Obligations.RaisingAFaultFillsTheRecord :=
  ⟨raise_eq_faultedBy, fun _ _ => rfl, fun _ _ => rfl, fun _ => rfl, fun _ _ => rfl, fun _ => rfl, rfl, fun _ => rfl⟩

/-- The fault entry of `c` (R91), the ports touched beforehand only as R92 lists for that cause. -/
structure State.FaultsTo (s : State) (c : FaultCause) (s' : State) : Prop where
  taken : s' = { s with input := s'.input, consumed := s'.consumed, sink := s'.sink, control := s'.control,
                        draws := s'.draws }.faultedBy c
  sink : c ≠ .outputFailed → s'.sink = s.sink
  input : c.kind ≠ .badInput → (∀ t, c ≠ .outOfBounds t .write) → s'.input = s.input ∧ s'.consumed = s.consumed
  endOfInput : c = .badInput .endOfInput → s'.consumed = s.consumed

theorem State.FaultsTo.fault_eq (h : s.FaultsTo c s') : s'.fault = some { cause := c, faultIp := s.ip } := by
  rw [h.taken]
  rfl

theorem State.FaultsTo.of_passControl (h : s.passControl.FaultsTo c s') : s.FaultsTo c s' :=
  ⟨h.taken, h.sink, h.input, h.endOfInput⟩

theorem State.FaultsTo.of_countDraw (h : s.countDraw.FaultsTo c s') : s.FaultsTo c s' :=
  ⟨h.taken, h.sink, h.input, h.endOfInput⟩

theorem raise_faultsTo (c : FaultCause) (s : State) : s.FaultsTo c (raise c s) :=
  ⟨rfl, fun _ => rfl, fun _ _ => ⟨rfl, rfl⟩, fun _ => rfl⟩

/-- A poll of a Read faults on its line or at the end of the input, or, with the line consumed, on its target. -/
theorem awaitInput_faultsTo (hf : (awaitInput t s).status = .faulted) :
    ∃ c, s.FaultsTo c (awaitInput t s) ∧ (c.kind = .outOfBounds ∨ c.kind = .badInput) := by
  obtain ⟨ans, src, -, ⟨-, h⟩ | ⟨-, h⟩ | ⟨l, -, h⟩⟩ := awaitInput_cases t s <;> rw [h] at hf ⊢
  · cases hf
  · exact ⟨.badInput .endOfInput, ⟨rfl, fun _ => rfl, fun hk => absurd rfl hk, fun _ => rfl⟩, .inr rfl⟩
  · rcases finishRead_cases t l ((s.setInput src).consume l) with ⟨-, h⟩ | ⟨w, -, -, h⟩ | ⟨w, -, -, h⟩ <;>
      rw [h] at hf ⊢
    · exact ⟨.badInput .malformed, ⟨rfl, fun _ => rfl, fun hk => absurd rfl hk, nofun⟩, .inr rfl⟩
    · exact ⟨.outOfBounds t .write, ⟨rfl, fun _ => rfl, fun _ ht => absurd rfl (ht t), nofun⟩, .inl rfl⟩
    · cases hf

theorem startRead_faultsTo (hf : (startRead t s).status = .faulted) :
    ∃ c, s.FaultsTo c (startRead t s) ∧ (c.kind = .outOfBounds ∨ c.kind = .badInput) := by
  rcases startRead_cases t s with ⟨-, h⟩ | ⟨-, h⟩ | ⟨-, h⟩ <;> rw [h] at hf ⊢
  · exact awaitInput_faultsTo hf
  · obtain ⟨c, hc, hkind⟩ := awaitInput_faultsTo hf
    exact ⟨c, hc.of_countDraw, hkind⟩
  · exact ⟨_, (raise_faultsTo _ s.countDraw).of_countDraw, .inl rfl⟩

/-- A poll of a Print faults where the sink fails and nowhere else. -/
theorem awaitSink_faultsTo (hf : (awaitSink v s).status = .faulted) : s.FaultsTo .outputFailed (awaitSink v s) := by
  obtain ⟨ans, k, -, ⟨-, h⟩ | ⟨-, h⟩ | ⟨-, h⟩⟩ := awaitSink_cases v s <;> rw [h] at hf ⊢
  · cases hf
  · exact ⟨rfl, fun hne => absurd rfl hne, fun _ _ => ⟨rfl, rfl⟩, nofun⟩
  · cases hf

/-- Every fault of a three-operand instruction but the operation's own is OutOfBounds. -/
theorem computeStore_error_kind (h : computeStore f m1 m2 s = .error c) :
    c.kind = .outOfBounds ∨ ∃ a b, f s.cfg a b = .error c := by
  rcases computeStore_error_iff.mp h with hr | ⟨a, b, -, ht | ⟨t, -, hop | ⟨r, -, -, rfl⟩⟩⟩
  · obtain ⟨x, rfl⟩ := outOfBounds_read_of_resolveTwo_error hr
    exact .inl rfl
  · obtain ⟨-, rfl⟩ := target_error_iff.mp ht
    exact .inl rfl
  · exact .inr ⟨a, b, hop⟩
  · exact .inl rfl

theorem computeStore_faultsTo (hs : s.status = .running) (h : conclude s (computeStore f m1 m2 s) = .next s')
    (hf : s'.status = .faulted) :
    ∃ c, s.FaultsTo c s' ∧ (c.kind = .outOfBounds ∨ ∃ a b, f s.cfg a b = .error c) := by
  rcases computeStore_cases h with ⟨c, hc, rfl⟩ | ⟨a, b, t, r, -, -, -, -, -, rfl⟩
  · exact ⟨c, raise_faultsTo c s, computeStore_error_kind hc⟩
  · cases hs.symm.trans hf

theorem jumpWhen_faultsTo {test : Int → Bool} (hs : s.status = .running)
    (h : conclude s (jumpWhen test m1 m2 s) = .next s') (hf : s'.status = .faulted) :
    ∃ c, s.FaultsTo c s' ∧ c.kind = .outOfBounds := by
  rcases jumpWhen_cases h with ⟨c, hc, rfl⟩ | ⟨x, t, -, -, rfl⟩
  · obtain ⟨x, rfl⟩ := outOfBounds_read_of_resolveTwo_error hc
    exact ⟨_, raise_faultsTo _ s, rfl⟩
  · cases hs.symm.trans hf

theorem execRead_faultsTo (h : execRead s = .next s') (hf : s'.status = .faulted) :
    ∃ c, s.FaultsTo c s' ∧ (c.kind = .outOfBounds ∨ c.kind = .badInput) := by
  rcases execRead_cases h with ⟨-, rfl⟩ | ⟨t, -, rfl⟩
  · exact ⟨_, raise_faultsTo _ s, .inl rfl⟩
  · exact startRead_faultsTo hf

theorem execPrint_faultsTo (h : execPrint m1 s = .next s') (hf : s'.status = .faulted) :
    ∃ c, s.FaultsTo c s' ∧ (c.kind = .outOfBounds ∨ c.kind = .outputFailed) := by
  rcases execPrint_cases h with ⟨x, -, rfl⟩ | ⟨v, -, rfl⟩
  · exact ⟨_, raise_faultsTo _ s, .inl rfl⟩
  · exact ⟨_, awaitSink_faultsTo hf, .inr rfl⟩

/-- R89: the faults a decoded instruction can raise under the parameters `cfg`. -/
def MayRaise (cfg : Config) (i : Instr) (c : FaultCause) : Prop :=
  c.kind = .outOfBounds ∨ c.kind = .badInput ∧ i.opcode = 3 ∨ c.kind = .outputFailed ∧ i.opcode = 4 ∨
    c.kind = .overflow ∧ (i.opcode = 1 ∨ i.opcode = 2) ∧ cfg.overflow = .fault

/-- An instruction whose operation is `fit` of an exact result, Add or Multiply, raises its Overflow by R72 alone. -/
theorem mayRaise_of_fit_error {cfg : Config} {x : Int} (hi : i.opcode = 1 ∨ i.opcode = 2) (h : fit cfg x = .error c) :
    MayRaise cfg i c := by
  obtain ⟨-, hpolicy, rfl⟩ := fit_error_iff.mp h
  exact .inr (.inr (.inr ⟨rfl, hi, hpolicy⟩))

/-- In RUNNING, an instruction faults as R91 and R92 say, with a cause of its own (R89). -/
theorem exec_faultsTo (hs : s.status = .running) (h : exec i s = .next s') (hf : s'.status = .faulted) :
    ∃ c, s.FaultsTo c s' ∧ MayRaise s.cfg i c := by
  cases i with
  | add m1 m2 m3 =>
    obtain ⟨c, hc, hkind | ⟨a, b, hop⟩⟩ := computeStore_faultsTo hs h hf
    · exact ⟨c, hc, .inl hkind⟩
    · exact ⟨c, hc, mayRaise_of_fit_error (.inl rfl) hop⟩
  | mul m1 m2 m3 =>
    obtain ⟨c, hc, hkind | ⟨a, b, hop⟩⟩ := computeStore_faultsTo hs h hf
    · exact ⟨c, hc, .inl hkind⟩
    · exact ⟨c, hc, mayRaise_of_fit_error (.inr rfl) hop⟩
  | lt m1 m2 m3 | eq m1 m2 m3 =>
    obtain ⟨c, hc, hkind | ⟨a, b, hop⟩⟩ := computeStore_faultsTo hs h hf
    · exact ⟨c, hc, .inl hkind⟩
    · cases hop
  | jnz m1 m2 m3 | jz m1 m2 m3 =>
    obtain ⟨c, hc, hkind⟩ := jumpWhen_faultsTo hs h hf
    exact ⟨c, hc, .inl hkind⟩
  | read m1 m2 m3 =>
    obtain ⟨c, hc, hkind | hkind⟩ := execRead_faultsTo h hf
    · exact ⟨c, hc, .inl hkind⟩
    · exact ⟨c, hc, .inr (.inl ⟨hkind, rfl⟩)⟩
  | print m1 m2 m3 =>
    obtain ⟨c, hc, hkind | hkind⟩ := execPrint_faultsTo h hf
    · exact ⟨c, hc, .inl hkind⟩
    · exact ⟨c, hc, .inr (.inr (.inl ⟨hkind, rfl⟩))⟩
  | halt m1 m2 m3 =>
    cases h
    cases hf

theorem opcode_ne_halt_of_faulted (h : exec i s = .next s') (hf : s'.status = .faulted) : i.opcode ≠ 99 := by
  intro hop
  obtain ⟨m1, m2, m3, rfl⟩ : ∃ m1 m2 m3, i = .halt m1 m2 m3 :=
    ⟨_, _, _, Instr.eq_withModes_of_opcode_eq (i := .halt .positional .positional .positional) hop.symm⟩
  cases h
  cases hf

/-- Settles O43: the record holds the cause of `exec_faultsTo`, and a Halt has no fault. -/
theorem eachInstructionRaisesOnlyItsOwnFaults : Obligations.EachInstructionRaisesOnlyItsOwnFaults := by
  intro i s s' hs h hf
  obtain ⟨c, hc, hmay⟩ := exec_faultsTo hs h hf
  exact ⟨{ cause := c, faultIp := s.ip }, hc.fault_eq, opcode_ne_halt_of_faulted h hf, hmay⟩

/-- R91 and R92 for every step of a run: fetch, decode, an instruction, or the poll of one that waits. -/
theorem step_faultsTo (hrun : s.status.inRun = true) (h : step s = .next s') (hf : s'.status = .faulted) :
    ∃ c, s.FaultsTo c s' := by
  rcases step_cases h with ⟨hs, i, -, hx⟩ | ⟨-, c, -, rfl⟩ | ⟨t, -, rfl⟩ | ⟨v, -, rfl⟩ | ⟨hout, -⟩
  · obtain ⟨c, hc, -⟩ := exec_faultsTo (s := s.passControl) hs hx hf
    exact ⟨c, hc.of_passControl⟩
  · exact ⟨c, (raise_faultsTo c s.passControl).of_passControl⟩
  · obtain ⟨c, hc, -⟩ := awaitInput_faultsTo hf
    exact ⟨c, hc.of_passControl⟩
  · exact ⟨_, (awaitSink_faultsTo hf).of_passControl⟩
  · cases hrun.symm.trans hout

/-- Settles O41: the fault entry changes none of these fields, and the control input goes by as in any step of a run. -/
theorem faultsArePrecise : Obligations.FaultsArePrecise := by
  intro s s' hrun h hf
  obtain ⟨c, hc⟩ := step_faultsTo hrun h hf
  refine ⟨?_, ?_, ?_, ?_, step_control_of_inRun hrun h, c, hc.fault_eq⟩ <;> rw [hc.taken] <;> rfl

/-- In a run, a step that is no Read's leaves the input alone (R79). -/
theorem step_keepsInput_or_read (hrun : s.status.inRun = true) (h : step s = .next s') :
    s'.input = s.input ∧ s'.consumed = s.consumed ∨
      (∃ t, s.status = .waitIn t) ∨ ∃ m1 m2 m3, s.instrAt = some (.read m1 m2 m3) := by
  rcases step_cases h with ⟨-, i, hi, hx⟩ | ⟨-, c, -, rfl⟩ | ⟨t, hs, -⟩ | ⟨v, -, rfl⟩ | ⟨hout, -⟩
  · by_cases hop : i.opcode = 3
    · obtain ⟨m1, m2, m3, rfl⟩ : ∃ m1 m2 m3, i = .read m1 m2 m3 :=
        ⟨_, _, _, Instr.eq_withModes_of_opcode_eq (i := .read .positional .positional .positional) hop.symm⟩
      exact .inr (.inr ⟨m1, m2, m3, instrAt_eq_some_iff.mpr hi⟩)
    · have hkeeps := exec_keepsInput hop hx
      exact .inl ⟨hkeeps.input, hkeeps.consumed⟩
  · exact .inl ⟨rfl, rfl⟩
  · exact .inr (.inl ⟨t, hs⟩)
  · have hkeeps := awaitSink_keepsInput v s.passControl
    exact .inl ⟨hkeeps.input, hkeeps.consumed⟩
  · cases hrun.symm.trans hout

/-- Settles O42: the record's cause is the one of `step_faultsTo`; who can have moved the input is a matter of R79. -/
theorem faultsTouchPortsOnlyAsListed : Obligations.FaultsTouchPortsOnlyAsListed := by
  intro s s' r hrun h hf hr
  obtain ⟨c, hc⟩ := step_faultsTo hrun h hf
  obtain rfl : r = { cause := c, faultIp := s.ip } := Option.some.inj (hr.symm.trans hc.fault_eq)
  exact ⟨hc.sink, hc.input, fun _ _ => step_keepsInput_or_read hrun h, hc.endOfInput⟩

/-- Settles O47: FAULTED is the other status of `core_run_of_ended`, and `init` is the step of `applyInit`. -/
theorem onlyInitLeavesFaulted : Obligations.OnlyInitLeavesFaulted := by
  refine fun s hs => ⟨fun hno n => core_run_of_ended (congrArg Status.ended hs) hno n, fun image cs hc hw => ?_⟩
  have hout : s.status.inRun = false := congrArg Status.inRun hs
  rw [step_of_not_inRun hout, stepIdle_init_of_words (asserted_cons hc) hw, passControl_of_cons hc]
  rfl

end Sys2Proof.Machine
end

section
/-! ### The order of a three-operand instruction's faults (R90, D9) -/

namespace Sys2Proof.Machine

variable {m1 m2 : Mode} {i : Instr}

/-- Where the exact result is a word or the policy is to wrap it, `fit` has a result (R72). -/
theorem exists_fit_of_no_overflow {cfg : Config} {x : Int} (h : IsWord cfg.wordBits x ∨ cfg.overflow = .wrap) :
    ∃ r, fit cfg x = .ok r := by
  by_cases hx : IsWord cfg.wordBits x
  · exact ⟨x, fit_of_isWord hx⟩
  · exact ⟨wrapW cfg.wordBits x, fit_of_wrap hx (h.resolve_left hx)⟩

/-- A three-operand instruction that raises no Overflow is `computeStore` with an operation that has a result. -/
theorem exec_of_threeOperand_without_overflow {m3 : Mode} (s : State) (a b : Int)
    (hi : i ∈ [Instr.add m1 m2 m3, .mul m1 m2 m3, .lt m1 m2 m3, .eq m1 m2 m3])
    (hadd : i.opcode = 1 → IsWord s.cfg.wordBits (a + b) ∨ s.cfg.overflow = .wrap)
    (hmul : i.opcode = 2 → IsWord s.cfg.wordBits (a * b) ∨ s.cfg.overflow = .wrap) :
    ∃ f r, exec i s = conclude s (computeStore f m1 m2 s) ∧ f s.cfg a b = .ok r := by
  simp only [List.mem_cons, List.not_mem_nil, or_false] at hi
  rcases hi with rfl | rfl | rfl | rfl
  · obtain ⟨r, hr⟩ := exists_fit_of_no_overflow (hadd rfl)
    exact ⟨aluAdd, r, rfl, hr⟩
  · obtain ⟨r, hr⟩ := exists_fit_of_no_overflow (hmul rfl)
    exact ⟨aluMul, r, rfl, hr⟩
  · exact ⟨aluLt, ltWord a b, rfl, rfl⟩
  · exact ⟨aluEq, eqWord a b, rfl, rfl⟩

/-- Settles O17: `computeStore_error_iff` gives the order, whatever the operation; only the last clause asks that the
operation has a result. -/
theorem threeOperandFaultsComeInSlotOrder : Obligations.ThreeOperandFaultsComeInSlotOrder := by
  intro s m1 m2 i hi
  obtain ⟨f, hexec⟩ := exec_of_threeOperand hi s
  have hfault : ∀ {c}, computeStore f m1 m2 s = .error c → exec i s = .next (s.faultedBy c) := fun h =>
    hexec.trans (conclude_of_error h)
  refine ⟨fun x hx => ?_, fun a x ha hx => ?_, fun a b ha hb ht => ?_, fun a b t ha hb ht hv hadd hmul => ?_⟩
  · exact hfault (computeStore_error_iff.mpr (.inl (resolveTwo_error_iff.mpr (.inl ⟨x, hx, rfl⟩))))
  · exact hfault (computeStore_error_iff.mpr (.inl (resolveTwo_error_iff.mpr (.inr ⟨⟨a, ha⟩, x, hx, rfl⟩))))
  · exact hfault (computeStore_error_iff.mpr
      (.inr ⟨a, b, resolveTwo_ok_iff.mpr ⟨ha, hb⟩, .inl (target_error_iff.mpr ⟨ht, rfl⟩)⟩))
  · obtain ⟨g, r, hexec', hr⟩ := exec_of_threeOperand_without_overflow s a b hi hadd hmul
    exact hexec'.trans (conclude_of_error (computeStore_error_iff.mpr
      (.inr ⟨a, b, resolveTwo_ok_iff.mpr ⟨ha, hb⟩, .inr ⟨t, target_ok_iff.mpr ht, .inr ⟨r, hr, hv, rfl⟩⟩⟩)))

end Sys2Proof.Machine
end

section
/-! ### Reset, `init` and `run` (R27, R103 to R106, D19, D20, D24)

Outside a run `init` answers by its image alone; and the state after reset is the one `init` of the empty image sets up,
so it has the invariant as any such state has. -/

namespace Sys2Proof.Machine

variable {s : State} {image : List Int} {cs : List Control}

theorem step_init_of_words (hout : s.status.inRun = false) (hc : s.control = .init image :: cs)
    (hw : ∀ v ∈ image, IsWord s.cfg.wordBits v) :
    step s = .next { s with mem := image, ip := 0, status := .ready, fault := none, control := cs } := by
  rw [step_of_not_inRun hout, stepIdle_init_of_words (asserted_cons hc) hw, passControl_of_cons hc]
  rfl

theorem step_init_refused (hout : s.status.inRun = false) (hc : s.control = .init image :: cs)
    (hw : ¬ ∀ v ∈ image, IsWord s.cfg.wordBits v) : step s = .refused .imageWordOutOfRange :=
  (step_of_not_inRun hout).trans (stepIdle_init_refused (asserted_cons hc) hw)

theorem step_run_of_ready (hs : s.status = .ready) (hc : s.control = .run :: cs) :
    step s = .next { s with status := .running, control := cs } :=
  (runStartsARunOnlyInReady s cs).1 hs hc

theorem core_run_init_then_run (hout : s.status.inRun = false) (hc : s.control = .init image :: .run :: cs)
    (hw : ∀ v ∈ image, IsWord s.cfg.wordBits v) :
    Sys2Proof.core.run 2 s =
      .next { s with mem := image, ip := 0, status := .running, fault := none, control := cs } := by
  rw [core_run_succ (step_init_of_words hout hc hw), core_run_one]
  exact step_run_of_ready rfl rfl

/-- Settles O49: the two steps are `core_run_init_then_run`; on the empty tape the fetch at 0 finds no cell; and one
non-word is enough for the refusal. -/
theorem initAndRunStartTheImage : Obligations.InitAndRunStartTheImage := by
  refine fun s image cs hout => ⟨fun hw hc => ?_, fun v hv hnot hc => ?_⟩
  · have htwo := core_run_init_then_run hout hc hw
    refine ⟨htwo, fun hempty => ?_⟩
    subst hempty
    rw [core_run_add (n := 1) htwo, core_run_one]
    exact step_of_ip_not_valid rfl rfl
  · exact step_init_refused hout hc fun hw => hnot (hw v hv)

theorem control_of_asserted_init (h : s.asserted = .init image) : ∃ cs, s.control = .init image :: cs := by
  cases hc : s.control with
  | nil => simp [State.asserted, hc] at h
  | cons d cs => exact ⟨cs, by rw [← h, asserted_cons hc]⟩

/-- Settles O52: a step of a run answers whatever it meets, and outside one `init` alone can refuse. -/
theorem everyStepAnswersANextState : Obligations.EveryStepAnswersANextState := by
  intro s
  cases hrun : s.status.inRun with
  | true => exact .inl (step_answers_of_inRun hrun)
  | false =>
    cases ha : s.asserted with
    | idle => exact .inl ⟨_, (step_of_not_inRun hrun).trans (stepIdle_idle ha)⟩
    | run =>
      rw [step_of_not_inRun hrun]
      by_cases hready : s.status = .ready
      · exact .inl ⟨_, stepIdle_run_of_ready ha hready⟩
      · exact .inl ⟨_, stepIdle_run_of_not_ready ha hready⟩
    | init image =>
      obtain ⟨cs, hc⟩ := control_of_asserted_init ha
      by_cases hw : ∀ v ∈ image, IsWord s.cfg.wordBits v
      · exact .inl ⟨_, step_init_of_words hrun hc hw⟩
      · have hbad : ∃ v ∈ image, ¬ IsWord s.cfg.wordBits v := by simpa using hw
        exact .inr ⟨step_init_refused hrun hc hw, rfl, image, cs, hc, hbad⟩

/-- Settles O51: the fields are those of `State.reset`, and with nothing asserted a step outside a run changes
nothing. -/
theorem resetIsReadyAtZero : Obligations.ResetIsReadyAtZero :=
  ⟨rfl, rfl, rfl, rfl, (step_of_not_inRun rfl).trans (stepIdle_nil rfl)⟩

/-- Settles O55: reset is `init` of the empty image, and the standard width of 64 is at least 2. -/
theorem resetHasTheInvariant : Obligations.ResetHasTheInvariant := by
  have hcfg : State.reset.cfg.Ok := by decide
  exact init_inv hcfg (reset_mem_wf State.reset.cfg.wordBits)

end Sys2Proof.Machine
end
